-- ==== Sys2Proof/Word.lean ====
section
/-! DEFINITION. The one word type of the block: the 4-bit value of a digit register, of `DIG_EN` and of
`BCD_OUT` (00_scope.md R8, R10). -/

namespace Sys2Proof

/-- A 4-bit value (R8: every digit register, `DIG_EN` and `BCD_OUT` are 4 bits wide). -/
abbrev Nibble := BitVec 4

end Sys2Proof
end

