-- ==== Sys2Proof/Syntax.lean ====
section
/-! DEFINITION. The 14 operations of opcode_table.json (30_encoding.md R44, R48 to R50). A constructor's
arguments are the don't-care bits of its pattern, named as in R45 and R46 (`sl` is R45's bit `s`). -/

namespace Sys2Proof

/-- One operation, selected by one of the three control words SEQ, SAMPLE and BANK (R44). -/
inductive Instr where
  /-- SEQ `1hspu` (70_reset_and_hazards.md R96). -/
  | sysReset (h sl p u : Bool)
  /-- SEQ `00spu` (42_sequencer.md R74). -/
  | dwell (sl p u : Bool)
  /-- SEQ `010pu` (R75). -/
  | slotStep (p u : Bool)
  /-- SEQ `0110u` (R76). -/
  | passStep (u : Bool)
  /-- SEQ `01110` (R77). -/
  | tickIdle
  /-- SEQ `01111` (R78). -/
  | tickAdvance
  /-- SAMPLE `0bc` (41_run_state.md R65). -/
  | actStart (b c : Bool)
  /-- SAMPLE `10c` (R66). -/
  | actPause (c : Bool)
  /-- SAMPLE `110` (R67). -/
  | actReset
  /-- SAMPLE `111` (R68). -/
  | actNone
  /-- BANK `00` (40_bcd_counter.md R59). -/
  | bcNop
  /-- BANK `01` (R60). -/
  | bcInc
  /-- BANK `10` (R61). -/
  | bcClr
  /-- BANK `11` (R62). -/
  | bcClrInc
  deriving DecidableEq, Repr

end Sys2Proof
end

