-- ==== Sys2Proof/Decode.lean ====
section
/-! DEFINITION. Decoding the control words SEQ, SAMPLE and BANK (30_encoding.md R45 to R50), the encoder,
and the rows of the opcode map as match and mask. -/

namespace Sys2Proof

/-- The three control words (R44). -/
inductive Format where
  | seq
  | sample
  | bank
  deriving DecidableEq, Repr

/-- R44: SEQ has 5 bits, SAMPLE 3 and BANK 2; no form changes a word's width (R53). -/
def Format.width : Format → Nat
  | .seq => 5
  | .sample => 3
  | .bank => 2

/-- What decoding a number answers: an operation, or a rejection by name. -/
inductive Decoded where
  | instr (i : Instr)
  /-- `w` does not fit the width of the format (R53). -/
  | tooWide (f : Format) (w : Nat)
  deriving DecidableEq, Repr

/-- The SEQ opcode map of R48, one line per row, its bits in the order r h s p u of R45. -/
def decodeSeqBits : Bool → Bool → Bool → Bool → Bool → Instr
  | true, h, sl, p, u => .sysReset h sl p u
  | false, false, sl, p, u => .dwell sl p u
  | false, true, false, p, u => .slotStep p u
  | false, true, true, false, u => .passStep u
  | false, true, true, true, false => .tickIdle
  | false, true, true, true, true => .tickAdvance

/-- The SAMPLE opcode map of R49, its bits in the order a b c of R46. -/
def decodeSampleBits : Bool → Bool → Bool → Instr
  | false, b, c => .actStart b c
  | true, false, c => .actPause c
  | true, true, false => .actReset
  | true, true, true => .actNone

/-- The BANK opcode map of R50, its bits in the order k i of R47. -/
def decodeBankBits : Bool → Bool → Instr
  | false, false => .bcNop
  | false, true => .bcInc
  | true, false => .bcClr
  | true, true => .bcClrInc

/-- A SEQ word (R45: bit 4 is r, 3 is h, 2 is s, 1 is p, 0 is u). -/
def decodeSeq (w : BitVec 5) : Instr :=
  decodeSeqBits (w.getLsbD 4) (w.getLsbD 3) (w.getLsbD 2) (w.getLsbD 1) (w.getLsbD 0)

/-- A SAMPLE word (R46: bit 2 is a, 1 is b, 0 is c). -/
def decodeSample (w : BitVec 3) : Instr :=
  decodeSampleBits (w.getLsbD 2) (w.getLsbD 1) (w.getLsbD 0)

/-- A BANK word (R47: bit 1 is k, 0 is i). -/
def decodeBank (w : BitVec 2) : Instr :=
  decodeBankBits (w.getLsbD 1) (w.getLsbD 0)

/-- Decodes the number `w` as a word of format `f`. -/
def decodeWord (f : Format) (w : Nat) : Decoded :=
  if w < 2 ^ f.width then
    match f with
    | .seq => .instr (decodeSeq (BitVec.ofNat 5 w))
    | .sample => .instr (decodeSample (BitVec.ofNat 3 w))
    | .bank => .instr (decodeBank (BitVec.ofNat 2 w))
  else .tooWide f w

/-- The control word an operation belongs to (R48, R49, R50). -/
def Instr.format : Instr → Format
  | .sysReset _ _ _ _ => .seq
  | .dwell _ _ _ => .seq
  | .slotStep _ _ => .seq
  | .passStep _ => .seq
  | .tickIdle => .seq
  | .tickAdvance => .seq
  | .actStart _ _ => .sample
  | .actPause _ => .sample
  | .actReset => .sample
  | .actNone => .sample
  | .bcNop => .bank
  | .bcInc => .bank
  | .bcClr => .bank
  | .bcClrInc => .bank

/-- The word of an operation: the `match` value of its row (R48, R49, R50) plus its don't-care bits at
their places (R45, R46). -/
def encode : Instr → Nat
  | .sysReset h sl p u => 0x10 + 8 * h.toNat + 4 * sl.toNat + 2 * p.toNat + u.toNat
  | .dwell sl p u => 0x00 + 4 * sl.toNat + 2 * p.toNat + u.toNat
  | .slotStep p u => 0x08 + 2 * p.toNat + u.toNat
  | .passStep u => 0x0C + u.toNat
  | .tickIdle => 0x0E
  | .tickAdvance => 0x0F
  | .actStart b c => 0x0 + 2 * b.toNat + c.toNat
  | .actPause c => 0x4 + c.toNat
  | .actReset => 0x6
  | .actNone => 0x7
  | .bcNop => 0x0
  | .bcInc => 0x1
  | .bcClr => 0x2
  | .bcClrInc => 0x3

/-- One row of the opcode map (R48, R49, R50): its format, its match value and its mask. -/
structure OpcodeRow where
  format : Format
  matchBits : Nat
  mask : Nat
  deriving DecidableEq, Repr

/-- The word `w` is one of the row's: the bits under the mask are the match value. -/
def OpcodeRow.selects (r : OpcodeRow) (w : Nat) : Bool := w &&& r.mask == r.matchBits

/-- The row of an operation, as R48, R49 and R50 print it. -/
def Instr.row : Instr → OpcodeRow
  | .sysReset _ _ _ _ => ⟨.seq, 0x10, 0x10⟩
  | .dwell _ _ _ => ⟨.seq, 0x00, 0x18⟩
  | .slotStep _ _ => ⟨.seq, 0x08, 0x1C⟩
  | .passStep _ => ⟨.seq, 0x0C, 0x1E⟩
  | .tickIdle => ⟨.seq, 0x0E, 0x1F⟩
  | .tickAdvance => ⟨.seq, 0x0F, 0x1F⟩
  | .actStart _ _ => ⟨.sample, 0x0, 0x4⟩
  | .actPause _ => ⟨.sample, 0x4, 0x6⟩
  | .actReset => ⟨.sample, 0x6, 0x7⟩
  | .actNone => ⟨.sample, 0x7, 0x7⟩
  | .bcNop => ⟨.bank, 0x0, 0x3⟩
  | .bcInc => ⟨.bank, 0x1, 0x3⟩
  | .bcClr => ⟨.bank, 0x2, 0x3⟩
  | .bcClrInc => ⟨.bank, 0x3, 0x3⟩

/-- The opcode map, all 14 rows in the table's order. -/
def opcodeRows : List OpcodeRow :=
  [⟨.seq, 0x10, 0x10⟩, ⟨.seq, 0x00, 0x18⟩, ⟨.seq, 0x08, 0x1C⟩, ⟨.seq, 0x0C, 0x1E⟩,
   ⟨.seq, 0x0E, 0x1F⟩, ⟨.seq, 0x0F, 0x1F⟩] ++
  [⟨.sample, 0x0, 0x4⟩, ⟨.sample, 0x4, 0x6⟩, ⟨.sample, 0x6, 0x7⟩, ⟨.sample, 0x7, 0x7⟩] ++
  [⟨.bank, 0x0, 0x3⟩, ⟨.bank, 0x1, 0x3⟩, ⟨.bank, 0x2, 0x3⟩, ⟨.bank, 0x3, 0x3⟩]

/-- The rows of format `f` that select the word `w`. -/
def rowsSelecting (f : Format) (w : Nat) : List OpcodeRow :=
  opcodeRows.filter fun r => decide (r.format = f) && r.selects w

/-- The format a number of `nbits` bits is read in. A width of 5, 3 or 2 names its format (R44). The three
words carry no tag of their format, so a whole byte does not say which it holds: DESIGN CHOICE (log entry
8), it is read in the narrowest format that holds it. -/
def tableFormat (nbits w : Nat) : Option Format :=
  if nbits = 5 then some .seq
  else if nbits = 3 then some .sample
  else if nbits = 2 then some .bank
  else if nbits = 8 then
    if w < 4 then some .bank else if w < 8 then some .sample else some .seq
  else none

/-- The operation the decoder reads from a word of the opcode table's numbering. -/
def decodeTableWord (nbits w : Nat) : Option Instr :=
  match tableFormat nbits w with
  | none => none
  | some f =>
    match decodeWord f w with
    | .instr i => some i
    | .tooWide _ _ => none

end Sys2Proof
end

