-- ==== Sys2Proof/Config.lean ====
section
/-! DEFINITION. What an implementation fixes (00_scope.md R7) and the free values: the input levels past
the listed stimulus (10_state.md R29) and the power-up values (10_state.md R30, 93 I1). -/

namespace Sys2Proof

/-- The two parameters the logic depends on (R7), fixed when the block is built. They stand in `State`,
unchanged by every step, so that one model serves every value of them. -/
structure Params where
  /-- `N_PASSES`: multiplexer passes per super-cycle (D9). -/
  nPasses : Nat
  /-- `DWELL_CYCLES`: clock edges per slot (D8). -/
  dwellCycles : Nat
  deriving DecidableEq, Repr

/-- The two parameters no rule of the logic depends on (R7, D10): `F_CLK` in Hz and `TICK_TOLERANCE` in
seconds. DESIGN CHOICE (log entry 13): rational numbers, kept outside `State`. `RealTime.wellFormed` says which
values they take. -/
structure RealTime where
  /-- `F_CLK`: the clock frequency. -/
  fClk : Rat
  /-- `TICK_TOLERANCE`: the allowed deviation of the tick period from one second. -/
  tickTolerance : Rat
  deriving DecidableEq, Repr

/-- The parameters of the block `State.reset` describes. DESIGN CHOICE (log entry 1): R7 leaves them open;
these are the illustrative, non-normative values of 70_reset_and_hazards.md R111. -/
def Config.resetParams : Params := { nPasses := 50, dwellCycles := 5 }

/-- FREE VALUE (log entry 2): the STIM word `{rst, start_n, pause_n, reset_n}` the environment drives at the
edge of this number, where no stimulus is listed (R29: "a free input of the step, and no law constrains
them"). -/
opaque Config.freeStim : Nat → BitVec 4

/-- FREE VALUE (log entry 10): the 4-bit registers at power-up (R30, R98, I1), numbered 0 to 3 for the digit
positions of R16, 4 for `DIG_EN`, 5 for `BCD_OUT`. -/
opaque Config.powerUpNibble : Nat → Nibble

/-- FREE VALUE (log entry 10): `RUN` at power-up. -/
opaque Config.powerUpRun : Bool

/-- FREE VALUE (log entry 10): `SLOT` at power-up. -/
opaque Config.powerUpSlot : BitVec 2

/-- FREE VALUE (log entry 10): `PASS` at power-up, before it is cut to its width. -/
opaque Config.powerUpPass : Nat

/-- FREE VALUE (log entry 10): `HOLD` at power-up, before it is cut to its width. -/
opaque Config.powerUpHold : Nat

end Sys2Proof
end

