-- ==== Sys2Proof/Machine/State.lean ====
section
/-! DEFINITION. The state of the Stopwatch core (10_state.md), as plain data, the fault of the model and the
state after a system reset. -/

namespace Sys2Proof.Machine

/-- The Digit Bank: four BCD digit registers (R14). -/
structure DigitBank where
  /-- `SU`, units of seconds. -/
  su : Nibble
  /-- `ST`, tens of seconds. -/
  st : Nibble
  /-- `MU`, units of minutes. -/
  mu : Nibble
  /-- `MT`, tens of minutes. -/
  mt : Nibble
  deriving DecidableEq, Repr

/-- The levels at the four input ports at one edge (R27). `true` is the high level; a button is pressed when
its level is low. -/
structure Pins where
  rst : Bool
  startN : Bool
  pauseN : Bool
  resetN : Bool
  deriving DecidableEq, Repr

/-- Everything the block holds before an edge. -/
structure State where
  /-- The parameters `N_PASSES` and `DWELL_CYCLES` the block was built with (00_scope.md R7); no step writes
  them (log entry 1). -/
  params : Params
  /-- `SU`, `ST`, `MU`, `MT` (R14). -/
  bank : DigitBank
  /-- `RUN`: `true` is Running (R18). -/
  run : Bool
  /-- `SLOT`: the digit position whose slot is in progress (R19). -/
  slot : BitVec 2
  /-- `PASS`: the completed passes of the current super-cycle (R20); DESIGN CHOICE (log entry 5): its
  unsigned value, not a vector of `W_PASS` bits. -/
  pass : Nat
  /-- `HOLD`: the dwell edges left in the current slot (R21); as `pass` (log entry 5). -/
  hold : Nat
  /-- `DIG_EN`: bit k enables digit position k (R24). -/
  digEn : BitVec 4
  /-- `BCD_OUT`: the value of the digit being rendered (R25). -/
  bcdOut : Nibble
  /-- The model's own: the wire `k` of the BANK word inside an edge (30_encoding.md R47), set by the action
  and low between edges. DESIGN CHOICE (log entry 4). -/
  k : Bool
  /-- The model's own: the input levels of the coming edges, the next first (R29, 30_encoding.md R54). DESIGN
  CHOICE (log entry 2): past the end of the list the levels are free values. -/
  script : List Pins
  /-- The model's own: how many edges were taken, which numbers the free input values (log entry 2). -/
  edge : Nat
  deriving DecidableEq, Repr

/-- Why a step stops (60_exceptions.md R86). -/
inductive Fault where
  /-- `Fault(IllegalState)`: raised by `step` alone, at an edge with `rst = 0` whose state violates `Inv`
  (R32). It records the whole state before the edge and the edge's inputs. Safe: the spec gives no
  behaviour for such a state. -/
  | illegalState (before : State) (inputs : Pins)
  deriving DecidableEq, Repr

/-- Why an operation has no meaning. No meaning and no step of this model answers a refusal. -/
inductive Refusal where
  /-- Raised by an arm of `exec` whose operation has no meaning yet; no arm is so. Safe: the run stops. -/
  | notModelled (mnemonic : String)
  deriving DecidableEq, Repr

/-- The state after an edge with `rst = 1` (R30), with no stimulus listed. The parameters are those of log
entry 1; `k`, `script` and `edge` are the model's own (log entries 2, 3 and 4). -/
def State.reset : State where
  params := Config.resetParams
  bank := { su := 0, st := 0, mu := 0, mt := 0 }
  run := false
  slot := 3
  pass := Config.resetParams.nPasses - 1
  hold := 0
  digEn := 0
  bcdOut := 0
  k := false
  script := []
  edge := 0

end Sys2Proof.Machine
end

