-- ==== Sys2Proof/Machine/Operands.lean ====
section
/-! DEFINITION. What the operations read: digit positions, the time value, the parameters as the rules use
them, the input levels of an edge, the control words formed from state and inputs, and the outputs. -/

namespace Sys2Proof.Machine

/-- `digit(k, s)`: the digit at position `k`, in the order SU, ST, MU, MT (10_state.md R16). -/
def DigitBank.digit (d : DigitBank) (k : BitVec 2) : Nibble :=
  if k = 0 then d.su else if k = 1 then d.st else if k = 2 then d.mu else d.mt

/-- `onehot4(k)`: the 4-bit value with only bit `k` set (00_scope.md R11). -/
def onehot4 (k : BitVec 2) : BitVec 4 := 1#4 <<< k.toNat

/-- The bank at 00:00. -/
def DigitBank.zero : DigitBank := { su := 0, st := 0, mu := 0, mt := 0 }

/-- The time value `T = 600*MT + 60*MU + 10*ST + SU` (R17). -/
def DigitBank.time (d : DigitBank) : Nat :=
  600 * d.mt.toNat + 60 * d.mu.toNat + 10 * d.st.toNat + d.su.toNat

/-- The digits of `n` seconds modulo 3600 (40_bcd_counter.md R57 (b)): `m` whole minutes and `x` seconds. -/
def DigitBank.ofTime (n : Nat) : DigitBank :=
  let m := n % 3600 / 60
  let x := n % 3600 % 60
  { su := BitVec.ofNat 4 (x % 10), st := BitVec.ofNat 4 (x / 10),
    mu := BitVec.ofNat 4 (m % 10), mt := BitVec.ofNat 4 (m / 10) }

/-- The legal digit values: SU and MU at most 9, ST and MT at most 5 (R15; conflict C4). -/
def DigitBank.legal (d : DigitBank) : Bool :=
  decide (d.su ≤ 9) && decide (d.st ≤ 5) && decide (d.mu ≤ 9) && decide (d.mt ≤ 5)

/-- `N_PASSES - 1`, the last pass of a super-cycle (R20). -/
def lastPass (p : Params) : Nat := p.nPasses - 1

/-- `DWELL_CYCLES - 1`, what a slot entry loads into `HOLD` (R21, 42_sequencer.md R73). -/
def dwellReload (p : Params) : Nat := p.dwellCycles - 1

/-- `ceil(log2 n)`, for `n ≥ 1`. -/
def ceilLog2 (n : Nat) : Nat := if n ≤ 1 then 0 else Nat.log2 (n - 1) + 1

/-- `W_PASS`, the width of `PASS` (00_scope.md R8, D29). -/
def wPass (p : Params) : Nat := max 1 (ceilLog2 p.nPasses)

/-- `W_HOLD`, the width of `HOLD` (R8, D29). -/
def wHold (p : Params) : Nat := max 1 (ceilLog2 p.dwellCycles)

/-- The stimulus word `{rst, start_n, pause_n, reset_n}` (30_encoding.md R54). -/
def stimOf (p : Pins) : BitVec 4 :=
  BitVec.ofBool p.rst ++ BitVec.ofBool p.startN ++ BitVec.ofBool p.pauseN ++ BitVec.ofBool p.resetN

/-- The levels a stimulus word stands for (R54). -/
def pinsOf (w : BitVec 4) : Pins where
  rst := w.getLsbD 3
  startN := w.getLsbD 2
  pauseN := w.getLsbD 1
  resetN := w.getLsbD 0

/-- The input levels at the edge `j` edges after the coming one: the listed ones, and past them free values
(10_state.md R29; log entry 2). -/
def State.inputsAt (s : State) (j : Nat) : Pins :=
  match s.script[j]? with
  | some p => p
  | none => pinsOf (Config.freeStim (s.edge + j))

/-- The input levels at the coming edge. -/
def State.pins (s : State) : Pins := s.inputsAt 0

/-- Bit h of SEQ: `HOLD == 0` (30_encoding.md R45). -/
def seqH (s : State) : Bool := s.hold == 0

/-- Bit s of SEQ: `SLOT == 3` (R45). -/
def seqS (s : State) : Bool := s.slot == 3

/-- Bit p of SEQ: `PASS == N_PASSES-1` (R45). -/
def seqP (s : State) : Bool := s.pass == lastPass s.params

/-- The SEQ word `r h s p u` of the coming edge (R45). -/
def seqWord (s : State) : BitVec 5 :=
  BitVec.ofBool s.pins.rst ++ BitVec.ofBool (seqH s) ++ BitVec.ofBool (seqS s) ++
    BitVec.ofBool (seqP s) ++ BitVec.ofBool s.run

/-- The SAMPLE word `a b c` of the coming edge (R46). -/
def sampleWord (s : State) : BitVec 3 :=
  BitVec.ofBool s.pins.startN ++ BitVec.ofBool s.pins.pauseN ++ BitVec.ofBool s.pins.resetN

/-- The BANK word `k i` (R47, 42_sequencer.md R71). -/
def bankWord (k i : Bool) : BitVec 2 := BitVec.ofBool k ++ BitVec.ofBool i

/-- What the four SAMPLE operations are called in `ACTION` (41_run_state.md R64). -/
inductive Action where
  | start
  | pause
  | reset
  | none
  deriving DecidableEq, Repr

/-- The priority chain `ACTION(a, b, c)` (R64): start over pause over reset; a low level is pressed. -/
def action (p : Pins) : Action :=
  if p.startN = false then .start
  else if p.pauseN = false then .pause
  else if p.resetN = false then .reset
  else .none

/-- What the ports show (10_state.md R27). -/
structure Outputs where
  digEn : BitVec 4
  bcdOut : Nibble
  timeBcd : BitVec 16
  running : Bool
  deriving DecidableEq, Repr

/-- The output ports, driven from the registers: `time_bcd = {MT, MU, ST, SU}`, `running = RUN` (R27, R28). -/
def State.outputs (s : State) : Outputs where
  digEn := s.digEn
  bcdOut := s.bcdOut
  timeBcd := s.bank.mt ++ s.bank.mu ++ s.bank.st ++ s.bank.su
  running := s.run

end Sys2Proof.Machine
end

