-- ==== Sys2Proof/Machine/Flags.lean ====
section
/-! DEFINITION. The carry computations of the Digit Bank (40_bcd_counter.md R55, R56) and the value an action
gives the one flag `RUN` (41_run_state.md R65 to R68). -/

namespace Sys2Proof.Machine

/-- `ADVANCE` (R55): one second more, each threshold test inside the carry that can make it true. -/
def advance (d : DigitBank) : DigitBank :=
  let su := d.su + 1
  if su = 10 then
    let st := d.st + 1
    if st = 6 then
      let mu := d.mu + 1
      if mu = 10 then
        let mt := d.mt + 1
        if mt = 6 then { su := 0, st := 0, mu := 0, mt := 0 }
        else { su := 0, st := 0, mu := 0, mt := mt }
      else { su := 0, st := 0, mu := mu, mt := d.mt }
    else { su := 0, st := st, mu := d.mu, mt := d.mt }
  else { su := su, st := d.st, mu := d.mu, mt := d.mt }

/-- Carry out of the units of seconds (R56). -/
def carry0 (d : DigitBank) : Bool := d.su == 9

/-- Carry out of the tens of seconds (R56). -/
def carry1 (d : DigitBank) : Bool := carry0 d && d.st == 5

/-- Carry out of the units of minutes (R56). -/
def carry2 (d : DigitBank) : Bool := carry1 d && d.mu == 9

/-- Carry out of the tens of minutes, the wrap from 59:59; it sets no flag (R56). -/
def carry3 (d : DigitBank) : Bool := carry2 d && d.mt == 5

/-- `ADVANCE` as a synchronous carry chain (R56). -/
def advanceChain (d : DigitBank) : DigitBank where
  su := if carry0 d then 0 else d.su + 1
  st := if carry1 d then 0 else if carry0 d then d.st + 1 else d.st
  mu := if carry2 d then 0 else if carry1 d then d.mu + 1 else d.mu
  mt := if carry3 d then 0 else if carry2 d then d.mt + 1 else d.mt

/-- `RUN` after an action (R70): START sets it, PAUSE and RESET clear it, NONE keeps it. -/
def runAfter (a : Action) (run : Bool) : Bool :=
  match a with
  | .start => true
  | .pause => false
  | .reset => false
  | .none => run

end Sys2Proof.Machine
end

