-- ==== Sys2Proof/Machine/Ops.lean ====
section
/-! DEFINITION. The named operations on the registers, the legality of a state, the model's fault, and what
ends an edge. The block raises no exception and returns from none (60_exceptions.md R85, R88): raising the
model's one fault (R86) is the only operation of that kind. -/

namespace Sys2Proof.Machine

/-- Writes `RUN` (10_state.md R18). -/
def writeRun (v : Bool) (s : State) : State := { s with run := v }

/-- Drives the wire `k` of the BANK word (30_encoding.md R47). -/
def driveK (v : Bool) (s : State) : State := { s with k := v }

/-- Writes all four digit registers together (20_memory.md R37). -/
def writeBank (d : DigitBank) (s : State) : State := { s with bank := d }

/-- Writes the position in the sequence: `SLOT`, `PASS` and `HOLD` (10_state.md R23). -/
def writeSequence (slot : BitVec 2) (pass hold : Nat) (s : State) : State :=
  { s with slot := slot, pass := pass, hold := hold }

/-- The display load (42_sequencer.md R72): it reads `SLOT` and the digits already written. -/
def displayLoad (s : State) : State :=
  { s with digEn := onehot4 s.slot, bcdOut := s.bank.digit s.slot }

/-- The registers of a system reset (10_state.md R30, 70_reset_and_hazards.md R96). -/
def resetRegisters (s : State) : State :=
  { s with
    bank := DigitBank.zero, run := false, slot := 3, pass := lastPass s.params, hold := 0,
    digEn := 0, bcdOut := 0 }

/-- The legal-state invariant `Inv` (10_state.md R32). -/
def State.legal (s : State) : Bool :=
  s.bank.legal &&
  decide (s.pass ≤ lastPass s.params) &&
  decide (s.hold ≤ dwellReload s.params) &&
  (s.digEn == 0 || s.digEn == onehot4 s.slot) &&
  s.bcdOut == s.bank.digit s.slot

/-- `PASS` and `HOLD` hold values their registers have the bits for (00_scope.md R8; log entry 5). -/
def State.fitsWidths (s : State) : Bool :=
  decide (s.pass < 2 ^ wPass s.params) && decide (s.hold < 2 ^ wHold s.params)

/-- `raise Fault(IllegalState)`: the fault records the state before the edge and the edge's inputs (60_exceptions.md R86). -/
def raiseIllegalState (s : State) : Host.Outcome State Fault Refusal :=
  .fault (.illegalState s s.pins)

/-- The model cause code of a fault (R86). -/
def causeCode : Fault → Nat
  | .illegalState _ _ => 1

/-- The end of an edge: the wire `k` falls, and the next edge's input levels come up (log entries 2, 4). -/
def closeEdge (s : State) : State :=
  { s with k := false, script := s.script.drop 1, edge := s.edge + 1 }

/-- `closeEdge` after an operation that answered a next state. -/
def closeOutcome : Host.Outcome State Fault Refusal → Host.Outcome State Fault Refusal
  | .next s => .next (closeEdge s)
  | .fault f => .fault f
  | .refused r => .refused r

/-- The operation the SEQ word of the coming edge selects (30_encoding.md R48). -/
def selected (s : State) : Instr := decodeSeq (seqWord s)

/-- Whether the coming edge faults (60_exceptions.md R89): not under reset, and otherwise before any operation. -/
def edgeFaults (s : State) : Bool := !s.pins.rst && !s.legal

/-- The state at power-up of a block built with the given parameters: every register a free value of its
width (10_state.md R30, 70_reset_and_hazards.md R98, 93 I1 and I14; log entry 10). -/
def State.powerUp (p : Params) : State where
  params := p
  bank := { su := Config.powerUpNibble 0, st := Config.powerUpNibble 1,
            mu := Config.powerUpNibble 2, mt := Config.powerUpNibble 3 }
  run := Config.powerUpRun
  slot := Config.powerUpSlot
  pass := Config.powerUpPass % 2 ^ wPass p
  hold := Config.powerUpHold % 2 ^ wHold p
  digEn := Config.powerUpNibble 4
  bcdOut := Config.powerUpNibble 5
  k := false
  script := []
  edge := 0

end Sys2Proof.Machine
end

