-- ==== Sys2Proof/Machine/Bank.lean ====
section
/-! DEFINITION. The BANK family: `BC_NOP`, `BC_INC`, `BC_CLR`, `BC_CLR_INC` (40_bcd_counter.md R58 to R62).
A BANK operation writes only the four digit registers and raises nothing. -/

namespace Sys2Proof.Machine

/-- `BC_NOP` writes nothing (R59). -/
def bcNop (s : State) : State := s

/-- `BC_INC` credits one tick (R60). -/
def bcInc (s : State) : State := writeBank (advance s.bank) s

/-- `BC_CLR` writes 00:00 (R61); it does not write `RUN` (conflict C2). -/
def bcClr (s : State) : State := writeBank DigitBank.zero s

/-- `BC_CLR_INC`: the advance, then the clear that discards it (R62, D16). -/
def bcClrInc (s : State) : State := bcClr (bcInc s)

/-- The BANK operation the wires `k` and `i` select (30_encoding.md R50). -/
def runBank (k i : Bool) (s : State) : State :=
  match k, i with
  | false, false => bcNop s
  | false, true => bcInc s
  | true, false => bcClr s
  | true, true => bcClrInc s

/-- BC_NOP (R59). -/
def execBcNop (s : State) : Host.Outcome State Fault Refusal := .next (bcNop s)

/-- BC_INC (R60). -/
def execBcInc (s : State) : Host.Outcome State Fault Refusal := .next (bcInc s)

/-- BC_CLR (R61). -/
def execBcClr (s : State) : Host.Outcome State Fault Refusal := .next (bcClr s)

/-- BC_CLR_INC (R62). -/
def execBcClrInc (s : State) : Host.Outcome State Fault Refusal := .next (bcClrInc s)

end Sys2Proof.Machine
end

