-- ==== Sys2Proof/Machine/Sample.lean ====
section
/-! DEFINITION. The SAMPLE family: `ACT_START`, `ACT_PAUSE`, `ACT_RESET`, `ACT_NONE` (41_run_state.md R65 to
R68). An action writes `RUN` and the clear bit `k` of the BANK word, and nothing else. -/

namespace Sys2Proof.Machine

/-- `ACT_START`: `RUN <- 1; k = 0` (R65). -/
def actStart (s : State) : State := driveK false (writeRun true s)

/-- `ACT_PAUSE`: `RUN <- 0; k = 0` (R66; the digits stay, D24 and conflict C5). -/
def actPause (s : State) : State := driveK false (writeRun false s)

/-- `ACT_RESET`: `RUN <- 0; k = 1` (R67); the BANK operation of the edge then clears the digits. -/
def actReset (s : State) : State := driveK true (writeRun false s)

/-- `ACT_NONE`: `k = 0`, and `RUN` is not written (R68). -/
def actNone (s : State) : State := driveK false s

/-- The action of a button sample (R64). -/
def runAction (a : Action) (s : State) : State :=
  match a with
  | .start => actStart s
  | .pause => actPause s
  | .reset => actReset s
  | .none => actNone s

/-- ACT_START (R65). -/
def execActStart (s : State) : Host.Outcome State Fault Refusal := .next (actStart s)

/-- ACT_PAUSE (R66). -/
def execActPause (s : State) : Host.Outcome State Fault Refusal := .next (actPause s)

/-- ACT_RESET (R67). -/
def execActReset (s : State) : Host.Outcome State Fault Refusal := .next (actReset s)

/-- ACT_NONE (R68). -/
def execActNone (s : State) : Host.Outcome State Fault Refusal := .next (actNone s)

end Sys2Proof.Machine
end

