-- ==== Sys2Proof/Machine/Seq.lean ====
section
/-! DEFINITION. The SEQ family: `SYS_RESET` (70_reset_and_hazards.md R96), `DWELL`, `SLOT_STEP`, `PASS_STEP`,
`TICK_IDLE`, `TICK_ADVANCE` (42_sequencer.md R74 to R78). -/

namespace Sys2Proof.Machine

/-- What every slot entry does (R71, R72, R73): the action of this edge's sample, the BANK operation of
`{k, i}`, the new position with `HOLD <- DWELL_CYCLES - 1`, and the display load. The advance reads the
digits before the edge and the clear discards it, so tick, action and display come in the order of
20_memory.md R39. -/
def slotEntry (slot : BitVec 2) (pass : Nat) (i : Bool) (s : State) : State :=
  let acted := runAction (action s.pins) s
  let banked := runBank acted.k i acted
  displayLoad (writeSequence slot pass (dwellReload s.params) banked)

/-- SYS_RESET (R96): every register takes its reset value, whatever the state. -/
def execSysReset (s : State) : Host.Outcome State Fault Refusal := .next (resetRegisters s)

/-- DWELL (R74): `HOLD <- HOLD - 1`; the buttons are not sampled and no other register is written. -/
def execDwell (s : State) : Host.Outcome State Fault Refusal :=
  .next (writeSequence s.slot s.pass (s.hold - 1) s)

/-- SLOT_STEP (R75): the next digit position of the pass. -/
def execSlotStep (s : State) : Host.Outcome State Fault Refusal :=
  .next (slotEntry (s.slot + 1) s.pass false s)

/-- PASS_STEP (R76): the next pass of the super-cycle. -/
def execPassStep (s : State) : Host.Outcome State Fault Refusal :=
  .next (slotEntry 0 (s.pass + 1) false s)

/-- TICK_IDLE (R77): the super-cycle ends with no tick. -/
def execTickIdle (s : State) : Host.Outcome State Fault Refusal :=
  .next (slotEntry 0 0 false s)

/-- TICK_ADVANCE (R78): the super-cycle ends and credits one tick. -/
def execTickAdvance (s : State) : Host.Outcome State Fault Refusal :=
  .next (slotEntry 0 0 true s)

end Sys2Proof.Machine
end

