-- ==== Sys2Proof/Machine/Dispatch.lean ====
section
/-! DEFINITION. One arm per constructor of Instr. The don't-care bits of a pattern have no effect (30_encoding.md R48, R49). -/

namespace Sys2Proof.Machine

def exec (i : Instr) (s : State) : Host.Outcome State Fault Refusal :=
  match i with
  | .sysReset _ _ _ _ => Sys2Proof.Machine.execSysReset s
  | .dwell _ _ _ => Sys2Proof.Machine.execDwell s
  | .slotStep _ _ => Sys2Proof.Machine.execSlotStep s
  | .passStep _ => Sys2Proof.Machine.execPassStep s
  | .tickIdle => Sys2Proof.Machine.execTickIdle s
  | .tickAdvance => Sys2Proof.Machine.execTickAdvance s
  | .actStart _ _ => Sys2Proof.Machine.execActStart s
  | .actPause _ => Sys2Proof.Machine.execActPause s
  | .actReset => Sys2Proof.Machine.execActReset s
  | .actNone => Sys2Proof.Machine.execActNone s
  | .bcNop => Sys2Proof.Machine.execBcNop s
  | .bcInc => Sys2Proof.Machine.execBcInc s
  | .bcClr => Sys2Proof.Machine.execBcClr s
  | .bcClrInc => Sys2Proof.Machine.execBcClrInc s

end Sys2Proof.Machine
end

