-- ==== Sys2Proof/Machine/Place.lean ====
section
/-! DEFINITION. Placing one control word so that the next edge forms it (log entry 9). The block fetches no
instruction (20_memory.md R43): its words are formed from registers and inputs (30_encoding.md R44), so
placing a word writes the registers and the listed inputs it is formed from. -/

namespace Sys2Proof.Machine

/-- Lists `p` as the input levels of the coming edge; later listed levels stay. -/
def placePins (p : Pins) (s : State) : State := { s with script := p :: s.script.drop 1 }

/-- Moves to digit position `k`, with the display registers that a legal state then shows (10_state.md R32). -/
def placeSlot (k : BitVec 2) (s : State) : State :=
  { s with slot := k, bcdOut := s.bank.digit k,
           digEn := if s.digEn = 0 then 0 else onehot4 k }

/-- The SEQ word `r h s p u` for the coming edge (30_encoding.md R45), with no button pressed. -/
def placeSeq (r h sl p u : Bool) (s : State) : State :=
  let slot := if sl then 3 else if s.slot = 3 then 0 else s.slot
  let pass := if p then lastPass s.params else if s.pass = lastPass s.params then 0 else s.pass
  let hold := if h then 0 else if s.hold = 0 then 1 else s.hold
  placePins { rst := r, startN := true, pauseN := true, resetN := true }
    (writeRun u (writeSequence slot pass hold (placeSlot slot s)))

/-- The SAMPLE word `a b c` for the coming edge (R46), made a slot-entry edge. -/
def placeSample (a b c : Bool) (s : State) : State :=
  placePins { rst := false, startN := a, pauseN := b, resetN := c }
    (writeSequence s.slot s.pass 0 s)

/-- The BANK word `k i` for the coming edge (R47): `k` by the reset button, `i` by a `TICK_ADVANCE` edge,
and `i = 0` by a slot entry while Stopped. -/
def placeBank (k i : Bool) (s : State) : State :=
  let t := if i then writeSequence 3 (lastPass s.params) 0 (placeSlot 3 s)
           else writeSequence s.slot s.pass 0 s
  placePins { rst := false, startN := true, pauseN := true, resetN := !k } (writeRun i t)

/-- Places the word `w` of format `f`; a number too wide for `f` places nothing. -/
def placeWord (f : Format) (w : Nat) (s : State) : State :=
  if w < 2 ^ f.width then
    match f with
    | .seq => placeSeq (w.testBit 4) (w.testBit 3) (w.testBit 2) (w.testBit 1) (w.testBit 0) s
    | .sample => placeSample (w.testBit 2) (w.testBit 1) (w.testBit 0) s
    | .bank => placeBank (w.testBit 1) (w.testBit 0) s
  else s

end Sys2Proof.Machine
end

