-- ==== Sys2Proof/Machine/Step.lean ====
section
/-! DEFINITION. One step: one rising edge of `clk` (00_scope.md R3; 42_sequencer.md R79). -/

namespace Sys2Proof.Machine

/-- One edge. In the order of 60_exceptions.md R89: `rst` overrides everything; otherwise the legal-state
check comes before any operation; otherwise the operation the SEQ word selects runs. Then the edge closes. -/
def step (s : State) : Host.Outcome State Fault Refusal :=
  if edgeFaults s then raiseIllegalState s else closeOutcome (exec (selected s) s)

/-- `s` with the word `w` of the opcode table's numbering placed so that the very next edge forms it (log
entries 8 and 9). -/
def State.withFetchWord (s : State) (nbits w : Nat) : State :=
  match tableFormat nbits w with
  | none => s
  | some f => placeWord f w s

end Sys2Proof.Machine
end

