-- ==== Sys2Proof/Machine/Script.lean ====
section
/-! DEFINITION. Stimulus scripts, the block's "assembler" (30_encoding.md R54): their lines, what a line
expands to, the words it is encoded in, and reading a line's text. -/

namespace Sys2Proof.Machine

/-- The five one-input pseudo-instructions. -/
inductive ScriptOp where
  | reset
  | idle
  | start
  | pause
  | rstbtn
  deriving DecidableEq, Repr

/-- One line of a script. -/
inductive ScriptLine where
  /-- `E <r><a><b><c> [x<K>]`. -/
  | edges (p : Pins) (k : Nat)
  /-- `RESET`, `IDLE`, `START`, `PAUSE` or `RSTBTN`, `[xK]`. -/
  | op (o : ScriptOp) (k : Nat)
  /-- `SLOTS <op> <n>`. -/
  | slots (o : ScriptOp) (n : Nat)
  /-- `PASSES <n>`. -/
  | passes (n : Nat)
  /-- `SUPER <n>`. -/
  | super (n : Nat)
  deriving DecidableEq, Repr

/-- The input levels a pseudo-instruction stands for: `E 1111`, `E 0111`, `E 0011`, `E 0101`, `E 0110`. -/
def ScriptOp.pins : ScriptOp → Pins
  | .reset => ⟨true, true, true, true⟩
  | .idle => ⟨false, true, true, true⟩
  | .start => ⟨false, false, true, true⟩
  | .pause => ⟨false, true, false, true⟩
  | .rstbtn => ⟨false, true, true, false⟩

/-- R54: `x<K>` repeats for K ≥ 1 edges, and `SLOTS` takes IDLE, START, PAUSE or RSTBTN. DEDUCED (log entry
15): `n ≥ 1` in `SLOTS`, `PASSES` and `SUPER`, which expand to an `x<K>`. -/
def ScriptLine.wellFormed : ScriptLine → Bool
  | .edges _ k => decide (1 ≤ k)
  | .op _ k => decide (1 ≤ k)
  | .slots o n => decide (o ≠ .reset) && decide (1 ≤ n)
  | .passes n => decide (1 ≤ n)
  | .super n => decide (1 ≤ n)

/-- The input levels, edge by edge, of a line for a block built with the given parameters (R54). -/
def ScriptLine.expand (p : Params) : ScriptLine → List Pins
  | .edges q k => List.replicate k q
  | .op o k => List.replicate k o.pins
  | .slots o n => List.replicate (n * p.dwellCycles) o.pins
  | .passes n => List.replicate (4 * n * p.dwellCycles) ScriptOp.idle.pins
  | .super n => List.replicate (4 * n * p.nPasses * p.dwellCycles) ScriptOp.idle.pins

/-- The input levels of a whole script. -/
def expandScript (p : Params) (ls : List ScriptLine) : List Pins :=
  ls.flatMap fun l => l.expand p

/-- The encoding of a line: one STIM word per edge (R54). -/
def ScriptLine.encoding (p : Params) (l : ScriptLine) : List (BitVec 4) := (l.expand p).map stimOf

/-- Lists a script's input levels for the coming edges (log entry 9). -/
def State.loadScript (ls : List ScriptLine) (s : State) : State :=
  { s with script := expandScript s.params ls }

/-! Reading text. DESIGN CHOICE (log entry 15): words are separated by spaces, numbers are decimal, and a line
with nothing before its `#` gives no edge. -/

/-- The text before a comment. -/
def beforeComment : List Char → List Char
  | [] => []
  | c :: cs => if c = '#' then [] else c :: beforeComment cs

/-- The words of a text; `w` is the word being read, its last character first. -/
def splitWords : List Char → List Char → List (List Char)
  | [], w => if w.isEmpty then [] else [w.reverse]
  | c :: cs, w =>
    if c = ' ' then (if w.isEmpty then splitWords cs [] else w.reverse :: splitWords cs [])
    else splitWords cs (c :: w)

/-- The value of a decimal digit. -/
def digitValue (c : Char) : Option Nat :=
  if 48 ≤ c.toNat ∧ c.toNat ≤ 57 then some (c.toNat - 48) else none

/-- A decimal number, read from left to right on top of `n`. -/
def readDigits : List Char → Nat → Option Nat
  | [], n => some n
  | c :: cs, n =>
    match digitValue c with
    | some d => readDigits cs (10 * n + d)
    | none => none

/-- A decimal number of at least one digit. -/
def readNumber (w : List Char) : Option Nat := if w.isEmpty then none else readDigits w 0

/-- The optional `x<K>`, with 1 where it is absent. -/
def readRepeat : List (List Char) → Option Nat
  | [] => some 1
  | [c :: cs] => if c = 'x' then readNumber cs else none
  | _ => none

/-- A level, `0` or `1`. -/
def readLevel (c : Char) : Option Bool :=
  if c = '0' then some false else if c = '1' then some true else none

/-- The four levels of an edge line. -/
def readPins : List Char → Option Pins
  | [r, a, b, c] =>
    match readLevel r, readLevel a, readLevel b, readLevel c with
    | some r, some a, some b, some c => some ⟨r, a, b, c⟩
    | _, _, _, _ => none
  | _ => none

/-- The name of a one-input pseudo-instruction. -/
def readOp (w : List Char) : Option ScriptOp :=
  if w = ['R', 'E', 'S', 'E', 'T'] then some .reset
  else if w = ['I', 'D', 'L', 'E'] then some .idle
  else if w = ['S', 'T', 'A', 'R', 'T'] then some .start
  else if w = ['P', 'A', 'U', 'S', 'E'] then some .pause
  else if w = ['R', 'S', 'T', 'B', 'T', 'N'] then some .rstbtn
  else none

/-- The line that a non-empty list of words stands for. -/
def readWords (w : List Char) (rest : List (List Char)) : Option ScriptLine :=
  if w = ['E'] then
    match rest with
    | q :: r =>
      match readPins q, readRepeat r with
      | some q, some k => some (.edges q k)
      | _, _ => none
    | [] => none
  else if w = ['S', 'L', 'O', 'T', 'S'] then
    match rest with
    | [o, n] =>
      match readOp o, readNumber n with
      | some o, some n => some (.slots o n)
      | _, _ => none
    | _ => none
  else if w = ['P', 'A', 'S', 'S', 'E', 'S'] then
    match rest with
    | [n] => (readNumber n).map .passes
    | _ => none
  else if w = ['S', 'U', 'P', 'E', 'R'] then
    match rest with
    | [n] => (readNumber n).map .super
    | _ => none
  else
    match readOp w, readRepeat rest with
    | some o, some k => some (.op o k)
    | _, _ => none

/-- Reads one line: no line of the syntax, or the lines it holds (none for a comment, one otherwise). -/
def readLine (cs : List Char) : Option (List ScriptLine) :=
  match splitWords (beforeComment cs) [] with
  | [] => some []
  | w :: rest =>
    match readWords w rest with
    | some l => if l.wellFormed then some [l] else none
    | none => none

/-- Reads a whole script; none where a line is not of the syntax. -/
def readScript : List (List Char) → Option (List ScriptLine)
  | [] => some []
  | l :: ls =>
    match readLine l, readScript ls with
    | some a, some b => some (a ++ b)
    | _, _ => none

end Sys2Proof.Machine
end

