-- ==== Sys2Proof/WellFormed.lean ====
section
/-! DEFINITION. What is well formed: the four parameters (00_scope.md R7) and the operations (30_encoding.md
R52). The check on script lines stands with their type in Machine/Script.lean. -/

namespace Sys2Proof

/-- R7: `N_PASSES` and `DWELL_CYCLES` are integers ≥ 1. -/
def Params.wellFormed (p : Params) : Bool :=
  decide (1 ≤ p.nPasses) && decide (1 ≤ p.dwellCycles)

/-- R7: `TICK_TOLERANCE` is a non-negative duration. DEDUCED (log entry 13): `F_CLK`, "a frequency in Hz", is
positive. -/
def RealTime.wellFormed (r : RealTime) : Bool :=
  decide (0 < r.fClk) && decide (0 ≤ r.tickTolerance)

/-- R52: no encoding of SEQ, SAMPLE or BANK is reserved or illegal, and a constructor holds don't-care bits
only, so every operation is well formed and the check refuses none. -/
def Instr.wellFormed : Instr → Bool
  | .sysReset _ _ _ _ => true
  | .dwell _ _ _ => true
  | .slotStep _ _ => true
  | .passStep _ => true
  | .tickIdle => true
  | .tickAdvance => true
  | .actStart _ _ => true
  | .actPause _ => true
  | .actReset => true
  | .actNone => true
  | .bcNop => true
  | .bcInc => true
  | .bcClr => true
  | .bcClrInc => true

end Sys2Proof
end

