-- ==== Sys2Proof/Machine/Timing.lean ====
section
/-! DEFINITION. Edge counts (42_sequencer.md R82, 70_reset_and_hazards.md R112) and the real-time relations
that constrain the choice of the parameters (R111). No rule of the logic depends on them. -/

namespace Sys2Proof.Machine

/-- Edges of a slot (R82). -/
def slotEdges (p : Params) : Nat := p.dwellCycles

/-- Edges of a pass (R82). -/
def passEdges (p : Params) : Nat := 4 * p.dwellCycles

/-- Edges of a super-cycle (R82). -/
def superEdges (p : Params) : Nat := 4 * p.nPasses * p.dwellCycles

/-- `T_slot = DWELL_CYCLES / F_CLK`, in seconds (R111). -/
def slotTime (p : Params) (r : RealTime) : Rat := slotEdges p / r.fClk

/-- `T_pass = 4 * T_slot` (R111). -/
def passTime (p : Params) (r : RealTime) : Rat := 4 * slotTime p r

/-- `T_tick = 4 * N_PASSES * DWELL_CYCLES / F_CLK` (R111). -/
def tickTime (p : Params) (r : RealTime) : Rat := superEdges p / r.fClk

/-- The real-time constraint: `F_CLK` and `TICK_TOLERANCE` are ones R7 admits, and the tick period deviates from
one second by at most `TICK_TOLERANCE` (00_scope.md R7, R111). A premise of real-time claims, never of the logic. -/
def tickInTolerance (p : Params) (r : RealTime) : Bool :=
  r.wellFormed && decide (tickTime p r - 1 ≤ r.tickTolerance) && decide (1 - tickTime p r ≤ r.tickTolerance)

end Sys2Proof.Machine
end

