-- ==== Sys2Proof/Safety.lean ====
section
/-! DEFINITION. The terms of claims: the legal-state invariant in the spec's words (10_state.md R32), a good
run (60_exceptions.md R86), the state after a system reset (R30), premises on the inputs of the coming edges
(R29), what an edge leaves by the rules' own words, and the whole next-state function of 42_sequencer.md R79. -/

namespace Sys2Proof.Safety

open Sys2Proof.Machine

/-- `Inv` (R32), condition by condition; `State.legal` is the same as a check. -/
def LegalState (s : State) : Prop :=
  (s.bank.su ≤ 9 ∧ s.bank.st ≤ 5 ∧ s.bank.mu ≤ 9 ∧ s.bank.mt ≤ 5) ∧
  s.pass ≤ s.params.nPasses - 1 ∧
  s.hold ≤ s.params.dwellCycles - 1 ∧
  ((s.digEn = 0 ∨ s.digEn = onehot4 s.slot) ∧ s.bcdOut = s.bank.digit s.slot)

/-- The display shows the slot in progress (42_sequencer.md R83; 10_state.md R24, R25). -/
def ShowsSlot (s : State) : Prop := s.digEn = onehot4 s.slot ∧ s.bcdOut = s.bank.digit s.slot

/-- A run of `n` edges from `s` reaches `t`: it met no fault (R86: "A faulted run is never a good run"). -/
def Reaches (n : Nat) (s t : State) : Prop := Host.Core.run Sys2Proof.core n s = .next t

/-- The registers hold their reset values (R30); the parameters and the inputs to come are any. -/
def AtReset (s : State) : Prop :=
  s.bank = DigitBank.zero ∧ s.run = false ∧ s.slot = 3 ∧ s.pass = s.params.nPasses - 1 ∧ s.hold = 0 ∧
    s.digEn = 0 ∧ s.bcdOut = 0

/-- `rst` is low at the coming `n` edges. -/
def NoReset (n : Nat) (s : State) : Prop := ∀ j < n, (s.inputsAt j).rst = false

/-- The coming edge enters a slot: `rst = 0` and `HOLD = 0` (42_sequencer.md R82). -/
def EntersSlot (s : State) : Prop := s.pins.rst = false ∧ s.hold = 0

/-- The coming edge ends a super-cycle (42_sequencer.md R77, R78). -/
def EndsSuperCycle (s : State) : Prop := EntersSlot s ∧ s.slot = 3 ∧ s.pass = s.params.nPasses - 1

/-- The reset button acts at the coming edge's sample: start and pause are not pressed (41_run_state.md R67). -/
def resetPressed (s : State) : Bool := s.pins.startN && s.pins.pauseN && !s.pins.resetN

/-- The slot-entry operations (30_encoding.md R48). -/
def entersBy : Instr → Bool
  | .slotStep _ _ => true
  | .passStep _ => true
  | .tickIdle => true
  | .tickAdvance => true
  | .sysReset _ _ _ _ => false
  | .dwell _ _ _ => false
  | .actStart _ _ => false
  | .actPause _ => false
  | .actReset => false
  | .actNone => false
  | .bcNop => false
  | .bcInc => false
  | .bcClr => false
  | .bcClrInc => false

/-- `RUN` after the coming edge's sample, button by button (41_run_state.md R70). -/
def sampledRun (s : State) : Bool :=
  if s.pins.startN = false then true
  else if s.pins.pauseN = false ∨ s.pins.resetN = false then false
  else s.run

/-- The digits after the coming edge's action, applied to `d`: the reset button clears them (41_run_state.md R67). -/
def clearedBy (s : State) (d : DigitBank) : DigitBank := if resetPressed s = true then ⟨0, 0, 0, 0⟩ else d

/-- The digits after the coming slot-entry edge's tick: one is due where the super-cycle ends with `RUN = 1`
before the edge (42_sequencer.md R78). -/
def tickedBank (s : State) : DigitBank :=
  if s.slot = 3 ∧ s.pass = s.params.nPasses - 1 ∧ s.run = true then advance s.bank else s.bank

/-- `s` after a slot-entry operation that enters `slot` of pass `pass` and whose tick, if any, left the digits
`d`, field by field (42_sequencer.md R72, R73, R75 to R78). -/
def entered (slot : BitVec 2) (pass : Nat) (d : DigitBank) (s : State) : State where
  params := s.params
  bank := clearedBy s d
  run := sampledRun s
  slot := slot
  pass := pass
  hold := s.params.dwellCycles - 1
  digEn := 1#4 <<< slot.toNat
  bcdOut := (clearedBy s d).digit slot
  k := resetPressed s
  script := s.script
  edge := s.edge

/-- `STEP` of 42_sequencer.md R79, line by line; `none` is `raise Fault(IllegalState)`. -/
def stepR79 (s : State) : Option State :=
  if s.pins.rst = true then
    some { s with bank := ⟨0, 0, 0, 0⟩, run := false, slot := 3, pass := s.params.nPasses - 1, hold := 0,
                  digEn := 0, bcdOut := 0 }
  else if s.legal = false then none
  else if s.hold ≠ 0 then some { s with hold := s.hold - 1 }
  else
    let (slot, pass, tick) : BitVec 2 × Nat × Bool :=
      if s.slot ≠ 3 then (s.slot + 1, s.pass, false)
      else if s.pass ≠ s.params.nPasses - 1 then (0, s.pass + 1, false)
      else (0, 0, s.run)
    let act := action s.pins
    let d := if tick = true then advance s.bank else s.bank
    let d := if act = .reset then ⟨0, 0, 0, 0⟩ else d
    let run := if act = .start then true else if act = .pause ∨ act = .reset then false else s.run
    some { s with bank := d, run := run, slot := slot, pass := pass, hold := s.params.dwellCycles - 1,
                  digEn := onehot4 slot, bcdOut := d.digit slot }

end Sys2Proof.Safety
end

