-- ==== Sys2Proof/Certificates/Slice0/Obligations.lean ====
section
/-! DEFINITION. The statements about the Stopwatch core that the provers settle. Each docstring names the rule
or the sections of spec/ the statement formalises; `[derived]` in the spec marks a sentence as the spec's own
inference. -/

open Sys2Proof Sys2Proof.Machine Sys2Proof.Safety

/-! ### Words and decoding (30_encoding.md) -/

/-- A few words of each format, their bits written as R48, R49 and R50 print the patterns. -/
def Obligations.PrintedWordsDecodeToTheirOperations : Prop :=
  decodeWord .seq 0b10100 = .instr (.sysReset false true false false) ∧
  decodeWord .seq 0b00110 = .instr (.dwell true true false) ∧
  decodeWord .seq 0b01001 = .instr (.slotStep false true) ∧
  decodeWord .seq 0b01101 = .instr (.passStep true) ∧
  decodeWord .seq 0b01110 = .instr .tickIdle ∧
  decodeWord .seq 0b01111 = .instr .tickAdvance ∧
  decodeWord .sample 0b001 = .instr (.actStart false true) ∧
  decodeWord .sample 0b101 = .instr (.actPause true) ∧
  decodeWord .sample 0b110 = .instr .actReset ∧
  decodeWord .bank 0b01 = .instr .bcInc ∧
  decodeWord .bank 0b10 = .instr .bcClr

/-- Decode and encode agree: the word of every well-formed operation, with every value of its don't-care bits,
fits its format and decodes back to it (sections 2 and 3). -/
def Obligations.DecodeOfEncodeGivesTheOperation : Prop :=
  ∀ i : Instr, i.wellFormed = true →
    encode i < 2 ^ i.format.width ∧ decodeWord i.format (encode i) = .instr i

/-- R48, R49, R50: every word of a format is the word of exactly one operation, and the match and mask of that
operation's row, and of no other row, select it. -/
def Obligations.EveryWordLiesInExactlyOneRow : Prop :=
  ∀ (f : Format) (w : Nat), w < 2 ^ f.width →
    ∃ i : Instr, decodeWord f w = .instr i ∧ i.format = f ∧ encode i = w ∧
      rowsSelecting f w = [i.row] ∧ ∀ j : Instr, j.format = f → encode j = w → j = i

/-- Section 4 (R53: "All three words have fixed widths"); that a wider number is rejected under a name is the
model's choice (log entry 8). -/
def Obligations.NumbersWiderThanTheFormatAreRejected : Prop :=
  ∀ (f : Format) (w : Nat), 2 ^ f.width ≤ w → decodeWord f w = .tooWide f w

/-- R45, R46: the bits of the words an edge forms. -/
def Obligations.ControlWordsAreFormedFromStateAndInputs : Prop :=
  ∀ s : State,
    (seqWord s).getLsbD 4 = s.pins.rst ∧
    ((seqWord s).getLsbD 3 = true ↔ s.hold = 0) ∧
    ((seqWord s).getLsbD 2 = true ↔ s.slot = 3) ∧
    ((seqWord s).getLsbD 1 = true ↔ s.pass = s.params.nPasses - 1) ∧
    (seqWord s).getLsbD 0 = s.run ∧
    (sampleWord s).getLsbD 2 = s.pins.startN ∧
    (sampleWord s).getLsbD 1 = s.pins.pauseN ∧
    (sampleWord s).getLsbD 0 = s.pins.resetN

/-! ### Digit Bank (40_bcd_counter.md) -/

/-- R59, R61, R62: the operations that do not count. -/
def Obligations.NopAndClearsOfTheBank : Prop :=
  ∀ s : State,
    exec .bcNop s = .next s ∧
    exec .bcClr s = .next { s with bank := ⟨0, 0, 0, 0⟩ } ∧
    exec .bcClrInc s = .next { s with bank := ⟨0, 0, 0, 0⟩ }

/-- R55, R60: `BC_INC` in the source's words: units to 10, then tens of seconds to 6, then minutes to 10, then
tens of minutes to 6, each reset carrying into the next digit; nothing but the digits is written. -/
def Obligations.IncrementCarriesDigitByDigit : Prop :=
  ∀ s : State, s.bank.legal = true →
    exec .bcInc s = .next { s with bank :=
      if s.bank.su ≠ 9 then { s.bank with su := s.bank.su + 1 }
      else if s.bank.st ≠ 5 then { s.bank with su := 0, st := s.bank.st + 1 }
      else if s.bank.mu ≠ 9 then { s.bank with su := 0, st := 0, mu := s.bank.mu + 1 }
      else if s.bank.mt ≠ 5 then { s.bank with su := 0, st := 0, mu := 0, mt := s.bank.mt + 1 }
      else ⟨0, 0, 0, 0⟩ }

/-- Section 1 (R57 "[derived: from rule R55 and 10_state.md rule R15]"), laws (a) to (d). -/
def Obligations.AdvanceObeysTheArithmeticLaws : Prop :=
  (∀ d : DigitBank, d.legal = true → (advance d).legal = true ∧ (advance d).time = (d.time + 1) % 3600) ∧
  (∀ n : Nat, advance^[n] DigitBank.zero = DigitBank.ofTime n) ∧
  (∀ d e : DigitBank, d.legal = true → e.legal = true → advance d = advance e → d = e) ∧
  (∀ e : DigitBank, e.legal = true → ∃ d : DigitBank, d.legal = true ∧ advance d = e) ∧
  (∀ d : DigitBank, d.legal = true → advance^[3600] d = d) ∧
  (∀ (d : DigitBank) (n : Nat), d.legal = true → 0 < n → n < 3600 → advance^[n] d ≠ d)

/-- 10_state.md section 1 (R17 "For every legal state, T ∈ [0, 3599], and each T in that range has exactly one
legal digit tuple [derived: from rule R15]"). -/
def Obligations.TimeValueNumbersTheLegalTuples : Prop :=
  (∀ d : DigitBank, d.legal = true → d.time < 3600 ∧ DigitBank.ofTime d.time = d) ∧
  (∀ n : Nat, n < 3600 → (DigitBank.ofTime n).legal = true ∧ (DigitBank.ofTime n).time = n)

/-- Section 1 (R56 "This form gives the same result as rule R55 on every legal tuple [derived: from rule R55]"). -/
def Obligations.CarryChainEqualsAdvance : Prop :=
  ∀ d : DigitBank, d.legal = true → advanceChain d = advance d

/-! ### Run state (41_run_state.md) -/

/-- R65 to R68: what each action writes, whatever its don't-care bits and whatever `RUN` was. -/
def Obligations.ActionsWriteRunAndTheClearBit : Prop :=
  ∀ (s : State) (b c : Bool),
    exec (.actStart b c) s = .next { s with run := true, k := false } ∧
    exec (.actPause c) s = .next { s with run := false, k := false } ∧
    exec .actReset s = .next { s with run := false, k := true } ∧
    exec .actNone s = .next { s with k := false }

/-- R64: the sample decodes by the fixed priority chain, and a button masked by a higher one has no effect at
that edge: two edges that differ only in masked levels reach the same state. -/
def Obligations.PriorityStartOverPauseOverReset : Prop :=
  (∀ s : State, decodeSample (sampleWord s) =
    if s.pins.startN = false then .actStart s.pins.pauseN s.pins.resetN
    else if s.pins.pauseN = false then .actPause s.pins.resetN
    else if s.pins.resetN = false then .actReset
    else .actNone) ∧
  (∀ (s t : State) (p q : Pins) (rest : List Pins),
    p.rst = q.rst →
    (p.startN = false ∧ q.startN = false ∨
      p.startN = q.startN ∧ p.pauseN = false ∧ q.pauseN = false) →
    step { s with script := p :: rest } = .next t → step { s with script := q :: rest } = .next t)

/-- R63: the buttons are sampled on the slot-entry edge, all three at that edge, and ignored on DWELL edges and
under `rst`. -/
def Obligations.ButtonsAreSampledOnSlotEntryOnly : Prop :=
  (∀ s : State, LegalState s → EntersSlot s →
    ∃ t, step s = .next t ∧
      t.run = (if s.pins.startN = false then true
        else if s.pins.pauseN = false ∨ s.pins.resetN = false then false else s.run)) ∧
  (∀ (s t : State) (p q : Pins) (rest : List Pins),
    p.rst = q.rst → (p.rst = true ∨ s.hold ≠ 0) →
    step { s with script := p :: rest } = .next t → step { s with script := q :: rest } = .next t)

/-- Section 3 (the table of R70 "[derived: from rules R65, R66, R67, R68]"): `RUN` and the digits after a
slot-entry edge; a tick is due where a super-cycle ends with `RUN = 1`. -/
def Obligations.RunStateMachineFollowsItsTable : Prop :=
  ∀ s : State, LegalState s → EntersSlot s →
    ∃ t, step s = .next t ∧
      match action s.pins with
      | .start => t.run = true ∧ t.bank = tickedBank s
      | .pause => t.run = false ∧ t.bank = tickedBank s
      | .reset => t.run = false ∧ t.bank = ⟨0, 0, 0, 0⟩
      | .none => t.run = s.run ∧ t.bank = tickedBank s

/-! ### Sequencer (42_sequencer.md) and reset (70_reset_and_hazards.md) -/

/-- R74: `DWELL`, where `HOLD ≠ 0`, counts `HOLD` down and writes nothing else; it is what an edge with `rst = 0` and `HOLD ≠ 0`
runs, and with `DWELL_CYCLES = 1` it never occurs. -/
def Obligations.DwellCountsHoldDown : Prop :=
  (∀ (s : State) (sl p u : Bool), s.hold ≠ 0 →
    exec (.dwell sl p u) s = .next { s with hold := s.hold - 1 }) ∧
  (∀ s : State, s.pins.rst = false → s.hold ≠ 0 → ∃ sl p u, selected s = .dwell sl p u) ∧
  (∀ (s : State) (sl p u : Bool), LegalState s → s.params.dwellCycles = 1 → selected s ≠ .dwell sl p u)

/-- R75: `SLOT_STEP`, where `SLOT ≠ 3`, enters the next position of the pass; no tick. -/
def Obligations.SlotStepEntersTheNextPosition : Prop :=
  (∀ (s : State) (p u : Bool), s.slot ≠ 3 →
    exec (.slotStep p u) s = .next (entered (s.slot + 1) s.pass s.bank s)) ∧
  (∀ s : State, EntersSlot s → s.slot ≠ 3 → ∃ p u, selected s = .slotStep p u)

/-- R76: `PASS_STEP`, before the last pass, enters position 0 of the next pass; no tick; with `N_PASSES = 1` it never occurs. -/
def Obligations.PassStepBeginsTheNextPass : Prop :=
  (∀ (s : State) (u : Bool), s.pass < s.params.nPasses - 1 →
    exec (.passStep u) s = .next (entered 0 (s.pass + 1) s.bank s)) ∧
  (∀ s : State, EntersSlot s → s.slot = 3 → s.pass ≠ s.params.nPasses - 1 →
    ∃ u, selected s = .passStep u) ∧
  (∀ (s : State) (u : Bool), LegalState s → s.params.nPasses = 1 → selected s ≠ .passStep u)

/-- R77: `TICK_IDLE` ends a super-cycle while Stopped; no tick, whatever the action. -/
def Obligations.TickIdleCreditsNothing : Prop :=
  (∀ s : State, exec .tickIdle s = .next (entered 0 0 s.bank s)) ∧
  (∀ s : State, EndsSuperCycle s → s.run = false → selected s = .tickIdle)

/-- R78: `TICK_ADVANCE` ends a super-cycle while Running (by `RUN` before the edge) and credits one tick to
the legal digits, before the action of the edge. -/
def Obligations.TickAdvanceCreditsOneTick : Prop :=
  (∀ s : State, s.bank.legal = true →
    exec .tickAdvance s = .next (entered 0 0 (advance s.bank) s)) ∧
  (∀ s : State, EndsSuperCycle s → s.run = true → selected s = .tickAdvance)

/-- The model's choice (log entry 6), where 42_sequencer.md, which assumes `Inv` and the selecting condition, and
40_bcd_counter.md section 1, whose `ADVANCE` is a function on legal tuples, give no behaviour: `exec` applies the
pseudocode as it reads. No step runs an operation there. -/
def Obligations.OutsideItsConditionAnOperationFollowsItsPseudocode : Prop :=
  ∀ s : State,
    (∀ sl p u : Bool, s.hold = 0 → exec (.dwell sl p u) s = .next s) ∧
    (∀ p u : Bool, s.slot = 3 → exec (.slotStep p u) s = .next (entered 0 s.pass s.bank s)) ∧
    (∀ u : Bool, s.params.nPasses - 1 ≤ s.pass →
      exec (.passStep u) s = .next (entered 0 (s.pass + 1) s.bank s)) ∧
    (s.bank.legal = false → exec .bcInc s = .next { s with bank := advance s.bank }) ∧
    (s.bank.legal = false → exec .tickAdvance s = .next (entered 0 0 (advance s.bank) s))

/-- R71, R72, R73: a slot-entry operation runs the operation its SAMPLE word decodes to, then the one its BANK
word `{k, i}` decodes to, loads `HOLD`, and loads the display from the new slot and digits; on a DWELL edge
BANK = 00 runs. -/
def Obligations.SlotEntryRunsSampleThenBankThenDisplay : Prop :=
  (∀ (s : State) (i : Instr), entersBy i = true →
    ∃ a b t : State,
      exec (decodeSample (sampleWord s)) s = .next a ∧
      (a.k = true ↔ decodeSample (sampleWord s) = .actReset) ∧
      exec (decodeBank (bankWord a.k (decide (i = .tickAdvance)))) a = .next b ∧
      exec i s = .next t ∧ t.run = b.run ∧ t.bank = b.bank ∧
      t.hold = s.params.dwellCycles - 1 ∧
      t.digEn = onehot4 t.slot ∧ t.bcdOut = t.bank.digit t.slot) ∧
  (∀ (s : State) (sl p u : Bool),
    ∃ b t : State, exec (decodeBank (bankWord false false)) s = .next b ∧
      exec (.dwell sl p u) s = .next t ∧ t.bank = b.bank)

/-- R39: on a slot-entry edge the tick comes first, by `RUN` and the digits before the edge, then the button
action on what the tick left, then the display load from what both left. -/
def Obligations.TickThenActionThenDisplay : Prop :=
  ∀ s : State, EntersSlot s →
    ∃ a b c t : State,
      exec (if s.slot = 3 ∧ s.pass = s.params.nPasses - 1 ∧ s.run = true then .bcInc else .bcNop) s = .next a ∧
      exec (decodeSample (sampleWord s)) a = .next b ∧
      exec (if b.k = true then .bcClr else .bcNop) b = .next c ∧
      exec (selected s) s = .next t ∧
      t.bank = c.bank ∧ t.run = c.run ∧ t.digEn = onehot4 t.slot ∧ t.bcdOut = c.bank.digit t.slot

/-- 70_reset_and_hazards.md section 1 (R96): `SYS_RESET` gives the reset values in any state, legal or not. The
third clause is the model's reading of "A model fault already recorded stays recorded" (log entry 7, DEDUCED): a
fault ends the run, so no later edge changes it; it holds by the form of `Host.Core.run` alone. -/
def Obligations.SystemResetFromAnyState : Prop :=
  (∀ (s : State) (h sl p u : Bool),
    exec (.sysReset h sl p u) s = .next { s with
      bank := ⟨0, 0, 0, 0⟩, run := false, slot := 3, pass := s.params.nPasses - 1, hold := 0,
      digEn := 0, bcdOut := 0 }) ∧
  (∀ s : State, s.pins.rst = true →
    ∃ h sl p u, selected s = .sysReset h sl p u ∧ ∃ t, step s = .next t ∧ AtReset t) ∧
  (∀ (s : State) (m n : Nat) (f : Fault), Host.Core.run Sys2Proof.core m s = .fault f →
    Host.Core.run Sys2Proof.core (m + n) s = .fault f)

/-- R30: the registers after an edge with `rst = 1`. -/
def Obligations.ResetEdgeLeavesTheListedRegisters : Prop :=
  ∀ s : State, s.pins.rst = true → ∃ t, step s = .next t ∧
    (t.bank.su = 0 ∧ t.bank.st = 0 ∧ t.bank.mu = 0 ∧ t.bank.mt = 0) ∧ t.run = false ∧ t.slot = 3 ∧
    t.pass = t.params.nPasses - 1 ∧ t.params = s.params ∧ t.hold = 0 ∧ t.digEn = 0b0000 ∧ t.bcdOut = 0

/-- 10_state.md section 6 (R30) in the model: `State.reset` holds the listed values, with the parameters the
model chose (log entry 1), and an edge with `rst = 1` changes nothing but the listed registers and the model's own
fields, which the end of the edge writes: `k` (log entry 4), `script` (log entry 2), `edge` (log entry 3). -/
def Obligations.ResetLeavesTheListedValues : Prop :=
  AtReset State.reset ∧
  ∀ s : State, s.pins.rst = true → step s = .next { s with
    bank := ⟨0, 0, 0, 0⟩, run := false, slot := 3, pass := s.params.nPasses - 1, hold := 0,
    digEn := 0, bcdOut := 0, k := false, script := s.script.drop 1, edge := s.edge + 1 }

/-- 70_reset_and_hazards.md section 1 (R97 "[derived: from rule R96 and 42_sequencer.md rule R77]"). -/
def Obligations.FirstEdgeAfterResetIsTickIdle : Prop :=
  ∀ s : State, AtReset s → s.pins.rst = false →
    selected s = .tickIdle ∧
    ∃ t, step s = .next t ∧ t.slot = 0 ∧ t.pass = 0 ∧ t.hold = s.params.dwellCycles - 1 ∧
      t.bank = ⟨0, 0, 0, 0⟩ ∧ t.digEn = 0b0001 ∧ t.bcdOut = t.bank.su

/-! ### The step -/

/-- What a step adds around the operation the SEQ word decodes to: the check before it (60_exceptions.md
section 2) and, after it, the end of the edge in the model's own fields (log entries 2, 3 and 4). -/
def Obligations.StepRunsTheDecodedOperation : Prop :=
  ∀ s : State, s.pins.rst = true ∨ LegalState s →
    ∃ t : State, exec (decodeSeq (seqWord s)) s = .next t ∧
      step s = .next { t with k := false, script := t.script.drop 1, edge := t.edge + 1 }

/-- Section 3 (R79 "[derived: from rules R74 to R78]"): the step that decodes control words and dispatches to
the operations is the composed function `STEP`, followed by the end of the edge, which is the model's choice and
writes its own fields only: `script` (log entry 2), `edge` (log entry 3), `k` (log entry 4). -/
def Obligations.StepIsTheComposedNextStateFunction : Prop :=
  ∀ s : State, step s =
    match stepR79 s with
    | some t => .next { t with k := false, script := s.script.drop 1, edge := s.edge + 1 }
    | none => .fault (.illegalState s s.pins)

/-- R86: the one fault is raised exactly at an edge with `rst = 0` whose state violates `Inv`; it records the
state before the edge and the edge's inputs, with cause code 1; no step is refused. -/
def Obligations.FaultExactlyOnIllegalStates : Prop :=
  ∀ s : State,
    ((∃ f, step s = .fault f) ↔ s.pins.rst = false ∧ ¬ LegalState s) ∧
    (∀ f, step s = .fault f → f = .illegalState s s.pins ∧ causeCode f = 1) ∧
    ∀ r, step s ≠ .refused r

/-- 10_state.md section 6 (R32 "`SYS_RESET` establishes `Inv`, and every operation preserves it [derived: …]"). -/
def Obligations.EveryStepKeepsTheLegalState : Prop :=
  ∀ s t : State, LegalState s ∨ s.pins.rst = true → step s = .next t → LegalState t

/-- 10_state.md section 6: the reset state is legal (for the parameters of log entry 1). -/
def Obligations.ResetStateIsLegal : Prop := LegalState State.reset

/-- Section 3 (R83 "[derived: …]"), as an invariant: once the display shows the slot in progress, every edge
without `rst` keeps it so; and every slot entry makes it so. -/
def Obligations.EveryStepKeepsTheDisplayOnItsSlot : Prop :=
  ∀ s t : State, s.pins.rst = false → (ShowsSlot s ∨ s.hold = 0) → step s = .next t →
    ShowsSlot t ∧ (t.digEn = 0b0001 ∨ t.digEn = 0b0010 ∨ t.digEn = 0b0100 ∨ t.digEn = 0b1000)

/-- Section 3 (R83 "From the first edge after reset onward, exactly one bit of `DIG_EN` is 1 at every edge, and
`BCD_OUT` is the value of that position's digit [derived: …]"). -/
def Obligations.OneDigitEnabledFromTheFirstEdgeOn : Prop :=
  ∀ (s : State) (n : Nat), AtReset s → NoReset n s → 1 ≤ n →
    ∃ t, Reaches n s t ∧ t.bcdOut = t.bank.digit t.slot ∧
      ∀ k : BitVec 2, t.digEn.getLsbD k.toNat = true ↔ k = t.slot

/-- Section 3 (R84): from a legal state the block runs for any number of edges, under any inputs. -/
def Obligations.LegalStatesRunForever : Prop :=
  ∀ (s : State) (n : Nat), LegalState s → ∃ t, Reaches n s t ∧ LegalState t

/-- R81: `SLOT`, `PASS` and `HOLD` advance the same way whatever the buttons and whatever `RUN`, the digits and
the display hold; only `rst` restarts them. -/
def Obligations.SequenceIgnoresButtonsAndRun : Prop :=
  ∀ s s' t t' : State,
    s.params = s'.params → s.slot = s'.slot → s.pass = s'.pass → s.hold = s'.hold →
    s.pins.rst = false → s'.pins.rst = false → step s = .next t → step s' = .next t' →
    t.slot = t'.slot ∧ t.pass = t'.pass ∧ t.hold = t'.hold

/-- 20_memory.md section 3 (R40 "[derived: …]") and 40_bcd_counter.md section 2 ("While RunState = Stopped …"):
with `rst = 0` the digits change only by the tick of a super-cycle's end while Running, or to 00:00 by the reset
button's action, which also stops the count. -/
def Obligations.DigitsChangeOnlyByTickOrReset : Prop :=
  ∀ s t : State, s.pins.rst = false → step s = .next t →
    t.bank = s.bank ∨
    (t.bank = advance s.bank ∧ EndsSuperCycle s ∧ s.run = true) ∨
    (t.bank = ⟨0, 0, 0, 0⟩ ∧ t.run = false ∧ EntersSlot s ∧ resetPressed s = true)

/-- Section 3 (R82 "[derived: …]"): the position in the sequence after `e` edges from reset. -/
def Obligations.SequencePositionAfterReset : Prop :=
  ∀ (s : State) (e : Nat), s.params.wellFormed = true → AtReset s → NoReset e s → 1 ≤ e →
    ∃ t, Reaches e s t ∧
      t.hold = s.params.dwellCycles - 1 - (e - 1) % s.params.dwellCycles ∧
      t.slot.toNat = (e - 1) / s.params.dwellCycles % 4 ∧
      t.pass = (e - 1) / (4 * s.params.dwellCycles) % s.params.nPasses

/-- 95_test_vectors.md section 1 (W1 and W8, properties of the source): start seen on the first edge after a
reset and no pause or reset acting afterwards, `n` super-cycles later the display counts `n` seconds modulo
3600. -/
def Obligations.SuperCyclesCountSeconds : Prop :=
  ∀ (s : State) (n : Nat), s.params.wellFormed = true → AtReset s →
    NoReset (1 + superEdges s.params * n) s → s.pins.startN = false →
    (∀ j < 1 + superEdges s.params * n, (s.inputsAt j).startN = false ∨
      (s.inputsAt j).pauseN = true ∧ (s.inputsAt j).resetN = true) →
    ∃ t, Reaches (1 + superEdges s.params * n) s t ∧ t.bank = DigitBank.ofTime n ∧ t.run = true ∧
      t.slot = 0 ∧ t.pass = 0

/-- 70_reset_and_hazards.md section 3 (R103 "A press held for `DWELL_CYCLES` consecutive edges or more is always
seen [derived: …]"), for each button where no button of higher priority masks it. -/
def Obligations.PressHeldForASlotIsSeen : Prop :=
  ∀ s : State, s.params.wellFormed = true → LegalState s → NoReset s.params.dwellCycles s →
    ∃ t, Reaches s.params.dwellCycles s t ∧
      ((∀ j < s.params.dwellCycles, (s.inputsAt j).startN = false) → t.run = true) ∧
      ((∀ j < s.params.dwellCycles, (s.inputsAt j).startN = true ∧ (s.inputsAt j).pauseN = false) →
        t.run = false) ∧
      ((∀ j < s.params.dwellCycles, (s.inputsAt j).startN = true ∧ (s.inputsAt j).pauseN = true ∧
          (s.inputsAt j).resetN = false) → t.run = false ∧ t.bank = ⟨0, 0, 0, 0⟩)

/-! ### Frames and what never changes -/

/-- 10_state.md section 6 (the table of R31 "[derived: …]"), 40_bcd_counter.md and 41_run_state.md: what each
family leaves unchanged. The block has no memory (20_memory.md section 1). -/
def Obligations.OperationsWriteOnlyTheirRegisters : Prop :=
  ∀ (i : Instr) (s t : State), exec i s = .next t →
    (i.format = .bank → t = { s with bank := t.bank }) ∧
    (i.format = .sample → t = { s with run := t.run, k := t.k }) ∧
    ((∃ sl p u, i = .dwell sl p u) → t = { s with hold := t.hold }) ∧
    ((∃ h sl p u, i = .sysReset h sl p u) →
      t.params = s.params ∧ t.k = s.k ∧ t.script = s.script ∧ t.edge = s.edge) ∧
    (entersBy i = true → t.params = s.params ∧ t.script = s.script ∧ t.edge = s.edge ∧
      ((∃ p u, i = .slotStep p u) → t.pass = s.pass) ∧
      (i ≠ .tickAdvance → resetPressed s = false → t.bank = s.bank) ∧
      (s.pins.startN = true → s.pins.pauseN = true → s.pins.resetN = true → t.run = s.run))

/-- 00_scope.md section 4 (R7: "each fixed when the block is built"): over any run the parameters stay; and
each edge uses up one listed input and one number (the model's own fields, log entries 1, 2 and 3). -/
def Obligations.ParametersAreFixedAndInputsUsedInOrder : Prop :=
  ∀ (s t : State) (n : Nat), Reaches n s t →
    t.params = s.params ∧ t.script = s.script.drop n ∧ t.edge = s.edge + n

/-- R28: the observation ports. -/
def Obligations.ObservationPortsShowDigitsAndRun : Prop :=
  ∀ s : State,
    s.outputs.timeBcd.extractLsb' 12 4 = s.bank.mt ∧
    s.outputs.timeBcd.extractLsb' 8 4 = s.bank.mu ∧
    s.outputs.timeBcd.extractLsb' 4 4 = s.bank.st ∧
    s.outputs.timeBcd.extractLsb' 0 4 = s.bank.su ∧
    s.outputs.running = s.run ∧ s.outputs.digEn = s.digEn ∧ s.outputs.bcdOut = s.bcdOut

/-- 00_scope.md section 4 (R8, decision D29): the counter widths are `max(1, ceil(log2 ·))`, and every legal
state fits them (the model keeps the counters as naturals: log entry 5). -/
def Obligations.LegalCountersFitTheirWidths : Prop :=
  ∀ s : State, s.params.wellFormed = true →
    (s.params.nPasses ≤ 2 ^ wPass s.params ∧
      (wPass s.params = 1 ∨ 2 ^ (wPass s.params - 1) < s.params.nPasses)) ∧
    (s.params.dwellCycles ≤ 2 ^ wHold s.params ∧
      (wHold s.params = 1 ∨ 2 ^ (wHold s.params - 1) < s.params.dwellCycles)) ∧
    (LegalState s → s.pass < 2 ^ wPass s.params ∧ s.hold < 2 ^ wHold s.params)

/-- 30_encoding.md section 5 (R54): STIM words and input levels name each other, and the pseudo-instructions
expand to the words the table prints. -/
def Obligations.StimulusLinesExpandToTheirWords : Prop :=
  (∀ p : Pins, pinsOf (stimOf p) = p) ∧ (∀ w : BitVec 4, stimOf (pinsOf w) = w) ∧
  ∀ (p : Params) (n : Nat),
    (ScriptLine.op .reset n).encoding p = List.replicate n 0xF ∧
    (ScriptLine.op .idle n).encoding p = List.replicate n 0x7 ∧
    (ScriptLine.op .start n).encoding p = List.replicate n 0x3 ∧
    (ScriptLine.op .pause n).encoding p = List.replicate n 0x5 ∧
    (ScriptLine.op .rstbtn n).encoding p = List.replicate n 0x6 ∧
    (ScriptLine.slots .start n).encoding p = List.replicate (n * p.dwellCycles) 0x3 ∧
    (ScriptLine.passes n).encoding p = List.replicate (4 * n * p.dwellCycles) 0x7 ∧
    (ScriptLine.super n).encoding p = List.replicate (4 * n * p.nPasses * p.dwellCycles) 0x7

/-- The model's own placing of a control word (log entry 9): in a block where every word can occur, the next
edge forms exactly the word placed, from a state that stays legal. -/
def Obligations.PlacedWordsAreTheNextWords : Prop :=
  ∀ (s : State) (w : Nat), LegalState s → 2 ≤ s.params.nPasses → 2 ≤ s.params.dwellCycles →
    (w < 32 → (seqWord (s.withFetchWord 5 w)).toNat = w ∧ LegalState (s.withFetchWord 5 w)) ∧
    (w < 8 → (sampleWord (s.withFetchWord 3 w)).toNat = w ∧ EntersSlot (s.withFetchWord 3 w) ∧
      LegalState (s.withFetchWord 3 w)) ∧
    (w < 4 → EntersSlot (s.withFetchWord 2 w) ∧ LegalState (s.withFetchWord 2 w) ∧
      (selected (s.withFetchWord 2 w) = .tickAdvance ↔ w.testBit 0 = true) ∧
      resetPressed (s.withFetchWord 2 w) = w.testBit 1)

/-- 70_reset_and_hazards.md section 4 (R111): the pass and the tick in terms of the slot; no rule of the logic
depends on them. For parameters 00_scope.md R7 admits (a positive `F_CLK` is DEDUCED, log entry 13) the tick time
is positive, and it is within `TICK_TOLERANCE` of one second exactly when the edges of a super-cycle differ from
those of a second by at most that fraction of `F_CLK`. -/
def Obligations.TickTimeIsPassesOfFourSlots : Prop :=
  ∀ (p : Params) (r : RealTime),
    (passTime p r = 4 * slotTime p r ∧ tickTime p r = p.nPasses * passTime p r) ∧
    (p.wellFormed = true → r.wellFormed = true → 0 < tickTime p r ∧
      (tickInTolerance p r = true ↔
        superEdges p - r.fClk ≤ r.tickTolerance * r.fClk ∧ r.fClk - superEdges p ≤ r.tickTolerance * r.fClk)) ∧
    (r.wellFormed = false → tickInTolerance p r = false)
end

