-- ==== Sys2Proof/Laws/State.lean ====
section
/-! SUPPORT. What each update of the state leaves in each field, so that no proof unfolds a record update. -/

namespace Sys2Proof.Machine

variable (s : State)

@[simp] theorem writeRun_params (v : Bool) : (writeRun v s).params = s.params := rfl
@[simp] theorem writeRun_bank (v : Bool) : (writeRun v s).bank = s.bank := rfl
@[simp] theorem writeRun_run (v : Bool) : (writeRun v s).run = v := rfl
@[simp] theorem writeRun_slot (v : Bool) : (writeRun v s).slot = s.slot := rfl
@[simp] theorem writeRun_pass (v : Bool) : (writeRun v s).pass = s.pass := rfl
@[simp] theorem writeRun_hold (v : Bool) : (writeRun v s).hold = s.hold := rfl
@[simp] theorem writeRun_digEn (v : Bool) : (writeRun v s).digEn = s.digEn := rfl
@[simp] theorem writeRun_bcdOut (v : Bool) : (writeRun v s).bcdOut = s.bcdOut := rfl
@[simp] theorem writeRun_k (v : Bool) : (writeRun v s).k = s.k := rfl
@[simp] theorem writeRun_script (v : Bool) : (writeRun v s).script = s.script := rfl
@[simp] theorem writeRun_edge (v : Bool) : (writeRun v s).edge = s.edge := rfl

@[simp] theorem driveK_params (v : Bool) : (driveK v s).params = s.params := rfl
@[simp] theorem driveK_bank (v : Bool) : (driveK v s).bank = s.bank := rfl
@[simp] theorem driveK_run (v : Bool) : (driveK v s).run = s.run := rfl
@[simp] theorem driveK_slot (v : Bool) : (driveK v s).slot = s.slot := rfl
@[simp] theorem driveK_pass (v : Bool) : (driveK v s).pass = s.pass := rfl
@[simp] theorem driveK_hold (v : Bool) : (driveK v s).hold = s.hold := rfl
@[simp] theorem driveK_digEn (v : Bool) : (driveK v s).digEn = s.digEn := rfl
@[simp] theorem driveK_bcdOut (v : Bool) : (driveK v s).bcdOut = s.bcdOut := rfl
@[simp] theorem driveK_k (v : Bool) : (driveK v s).k = v := rfl
@[simp] theorem driveK_script (v : Bool) : (driveK v s).script = s.script := rfl
@[simp] theorem driveK_edge (v : Bool) : (driveK v s).edge = s.edge := rfl

@[simp] theorem writeBank_params (d : DigitBank) : (writeBank d s).params = s.params := rfl
@[simp] theorem writeBank_bank (d : DigitBank) : (writeBank d s).bank = d := rfl
@[simp] theorem writeBank_run (d : DigitBank) : (writeBank d s).run = s.run := rfl
@[simp] theorem writeBank_slot (d : DigitBank) : (writeBank d s).slot = s.slot := rfl
@[simp] theorem writeBank_pass (d : DigitBank) : (writeBank d s).pass = s.pass := rfl
@[simp] theorem writeBank_hold (d : DigitBank) : (writeBank d s).hold = s.hold := rfl
@[simp] theorem writeBank_digEn (d : DigitBank) : (writeBank d s).digEn = s.digEn := rfl
@[simp] theorem writeBank_bcdOut (d : DigitBank) : (writeBank d s).bcdOut = s.bcdOut := rfl
@[simp] theorem writeBank_k (d : DigitBank) : (writeBank d s).k = s.k := rfl
@[simp] theorem writeBank_script (d : DigitBank) : (writeBank d s).script = s.script := rfl
@[simp] theorem writeBank_edge (d : DigitBank) : (writeBank d s).edge = s.edge := rfl

@[simp] theorem writeSequence_params (sl : BitVec 2) (p h : Nat) : (writeSequence sl p h s).params = s.params := rfl
@[simp] theorem writeSequence_bank (sl : BitVec 2) (p h : Nat) : (writeSequence sl p h s).bank = s.bank := rfl
@[simp] theorem writeSequence_run (sl : BitVec 2) (p h : Nat) : (writeSequence sl p h s).run = s.run := rfl
@[simp] theorem writeSequence_slot (sl : BitVec 2) (p h : Nat) : (writeSequence sl p h s).slot = sl := rfl
@[simp] theorem writeSequence_pass (sl : BitVec 2) (p h : Nat) : (writeSequence sl p h s).pass = p := rfl
@[simp] theorem writeSequence_hold (sl : BitVec 2) (p h : Nat) : (writeSequence sl p h s).hold = h := rfl
@[simp] theorem writeSequence_digEn (sl : BitVec 2) (p h : Nat) : (writeSequence sl p h s).digEn = s.digEn := rfl
@[simp] theorem writeSequence_bcdOut (sl : BitVec 2) (p h : Nat) : (writeSequence sl p h s).bcdOut = s.bcdOut := rfl
@[simp] theorem writeSequence_k (sl : BitVec 2) (p h : Nat) : (writeSequence sl p h s).k = s.k := rfl
@[simp] theorem writeSequence_script (sl : BitVec 2) (p h : Nat) : (writeSequence sl p h s).script = s.script := rfl
@[simp] theorem writeSequence_edge (sl : BitVec 2) (p h : Nat) : (writeSequence sl p h s).edge = s.edge := rfl

@[simp] theorem displayLoad_params : (displayLoad s).params = s.params := rfl
@[simp] theorem displayLoad_bank : (displayLoad s).bank = s.bank := rfl
@[simp] theorem displayLoad_run : (displayLoad s).run = s.run := rfl
@[simp] theorem displayLoad_slot : (displayLoad s).slot = s.slot := rfl
@[simp] theorem displayLoad_pass : (displayLoad s).pass = s.pass := rfl
@[simp] theorem displayLoad_hold : (displayLoad s).hold = s.hold := rfl
@[simp] theorem displayLoad_digEn : (displayLoad s).digEn = onehot4 s.slot := rfl
@[simp] theorem displayLoad_bcdOut : (displayLoad s).bcdOut = s.bank.digit s.slot := rfl
@[simp] theorem displayLoad_k : (displayLoad s).k = s.k := rfl
@[simp] theorem displayLoad_script : (displayLoad s).script = s.script := rfl
@[simp] theorem displayLoad_edge : (displayLoad s).edge = s.edge := rfl

@[simp] theorem resetRegisters_params : (resetRegisters s).params = s.params := rfl
@[simp] theorem resetRegisters_bank : (resetRegisters s).bank = DigitBank.zero := rfl
@[simp] theorem resetRegisters_run : (resetRegisters s).run = false := rfl
@[simp] theorem resetRegisters_slot : (resetRegisters s).slot = 3 := rfl
@[simp] theorem resetRegisters_pass : (resetRegisters s).pass = lastPass s.params := rfl
@[simp] theorem resetRegisters_hold : (resetRegisters s).hold = 0 := rfl
@[simp] theorem resetRegisters_digEn : (resetRegisters s).digEn = 0 := rfl
@[simp] theorem resetRegisters_bcdOut : (resetRegisters s).bcdOut = 0 := rfl
@[simp] theorem resetRegisters_k : (resetRegisters s).k = s.k := rfl
@[simp] theorem resetRegisters_script : (resetRegisters s).script = s.script := rfl
@[simp] theorem resetRegisters_edge : (resetRegisters s).edge = s.edge := rfl

@[simp] theorem closeEdge_params : (closeEdge s).params = s.params := rfl
@[simp] theorem closeEdge_bank : (closeEdge s).bank = s.bank := rfl
@[simp] theorem closeEdge_run : (closeEdge s).run = s.run := rfl
@[simp] theorem closeEdge_slot : (closeEdge s).slot = s.slot := rfl
@[simp] theorem closeEdge_pass : (closeEdge s).pass = s.pass := rfl
@[simp] theorem closeEdge_hold : (closeEdge s).hold = s.hold := rfl
@[simp] theorem closeEdge_digEn : (closeEdge s).digEn = s.digEn := rfl
@[simp] theorem closeEdge_bcdOut : (closeEdge s).bcdOut = s.bcdOut := rfl
@[simp] theorem closeEdge_k : (closeEdge s).k = false := rfl
@[simp] theorem closeEdge_script : (closeEdge s).script = s.script.drop 1 := rfl
@[simp] theorem closeEdge_edge : (closeEdge s).edge = s.edge + 1 := rfl

/-- The levels listed or drawn for later edges come one edge closer when an edge closes. -/
theorem closeEdge_inputsAt (j : Nat) : (closeEdge s).inputsAt j = s.inputsAt (j + 1) := by
  unfold State.inputsAt
  simp only [closeEdge_script, closeEdge_edge, List.getElem?_drop]
  rw [Nat.add_comm 1 j, Nat.add_assoc s.edge 1 j, Nat.add_comm 1 j]

/-- An update that leaves the script and the edge number leaves every edge's input levels. -/
theorem inputsAt_of_same (t : State) (hs : t.script = s.script) (he : t.edge = s.edge) (j : Nat) :
    t.inputsAt j = s.inputsAt j := by
  unfold State.inputsAt; rw [hs, he]

@[simp] theorem writeRun_pins (v : Bool) : (writeRun v s).pins = s.pins := rfl
@[simp] theorem driveK_pins (v : Bool) : (driveK v s).pins = s.pins := rfl
@[simp] theorem writeBank_pins (d : DigitBank) : (writeBank d s).pins = s.pins := rfl
@[simp] theorem writeSequence_pins (sl : BitVec 2) (p h : Nat) : (writeSequence sl p h s).pins = s.pins := rfl
@[simp] theorem displayLoad_pins : (displayLoad s).pins = s.pins := rfl
@[simp] theorem resetRegisters_pins : (resetRegisters s).pins = s.pins := rfl

end Sys2Proof.Machine
end

