-- ==== Sys2Proof/Laws/Ops.lean ====
section
/-! SUPPORT. For each shared operation, once, everything it can do: the actions, the BANK operations, the slot
entry, the selection of the SEQ operation, and the step. -/

namespace Sys2Proof.Machine

open Sys2Proof.Safety

/-- The Bool check and the spec's conditions are the same. -/
theorem legal_iff (s : State) : s.legal = true ↔ LegalState s := by
  simp only [State.legal, DigitBank.legal, Bool.and_eq_true, Bool.or_eq_true, decide_eq_true_eq, beq_iff_eq]
  simp only [lastPass, dwellReload, LegalState, and_assoc]

/-- A state the check refuses violates the spec's conditions. -/
theorem legal_eq_false_iff (s : State) : s.legal = false ↔ ¬ LegalState s := by
  rw [← legal_iff, Bool.not_eq_true]

/-- The action of a sample is a reset exactly when only the reset button counts. -/
theorem action_eq_reset_iff (s : State) : action s.pins = .reset ↔ resetPressed s = true := by
  unfold action resetPressed
  cases s.pins.startN <;> cases s.pins.pauseN <;> cases s.pins.resetN <;> decide

/-- `RUN` after the action, in the buttons' own levels. -/
theorem runAfter_action (s : State) : runAfter (action s.pins) s.run = sampledRun s := by
  unfold runAfter action sampledRun
  cases s.pins.startN <;> cases s.pins.pauseN <;> cases s.pins.resetN <;> rfl

/-- An action writes `RUN` and `k`, and nothing else. -/
theorem runAction_eq (a : Action) (s : State) :
    runAction a s = { s with run := runAfter a s.run, k := decide (a = .reset) } := by
  cases a <;> rfl

/-- A BANK operation writes the digits, and nothing else. -/
theorem runBank_eq (k i : Bool) (s : State) :
    runBank k i s =
      { s with bank := if k = true then DigitBank.zero else if i = true then advance s.bank else s.bank } := by
  cases k <;> cases i <;> rfl

/-- A slot entry leaves what the rules name, field by field. -/
theorem slotEntry_eq (slot : BitVec 2) (pass : Nat) (i : Bool) (s : State) :
    slotEntry slot pass i s = entered slot pass (if i = true then advance s.bank else s.bank) s := by
  unfold slotEntry
  simp only [runAction_eq, runBank_eq, runAfter_action, action_eq_reset_iff]
  simp only [displayLoad, writeSequence, entered, clearedBy, dwellReload, onehot4, DigitBank.zero,
    Bool.decide_eq_true]

/-- Every operation answers a next state. -/
theorem exec_next (i : Instr) (s : State) : ∃ t, exec i s = .next t := by
  cases i <;> exact ⟨_, rfl⟩

/-- No operation touches the parameters or the inputs to come. -/
theorem exec_keeps (i : Instr) (s t : State) (h : exec i s = .next t) :
    t.params = s.params ∧ t.script = s.script ∧ t.edge = s.edge := by
  cases i <;>
    simp only [exec, execSysReset, execDwell, execSlotStep, execPassStep, execTickIdle, execTickAdvance,
      execActStart, execActPause, execActReset, execActNone, execBcNop, execBcInc, execBcClr, execBcClrInc,
      slotEntry_eq, Host.Outcome.next.injEq] at h <;>
    subst h <;> exact ⟨rfl, rfl, rfl⟩

/-- Decoding a SEQ word reads back the bits it was formed of. -/
theorem decodeSeq_ofBools (r h sl p u : Bool) :
    decodeSeq (BitVec.ofBool r ++ BitVec.ofBool h ++ BitVec.ofBool sl ++ BitVec.ofBool p ++ BitVec.ofBool u) =
      decodeSeqBits r h sl p u := by
  cases r <;> cases h <;> cases sl <;> cases p <;> cases u <;> rfl

/-- Decoding a SAMPLE word reads back its three levels. -/
theorem decodeSample_ofBools (a b c : Bool) :
    decodeSample (BitVec.ofBool a ++ BitVec.ofBool b ++ BitVec.ofBool c) = decodeSampleBits a b c := by
  cases a <;> cases b <;> cases c <;> rfl

/-- Decoding a BANK word reads back its two bits. -/
theorem decodeBank_ofBools (k i : Bool) :
    decodeBank (BitVec.ofBool k ++ BitVec.ofBool i) = decodeBankBits k i := by
  cases k <;> cases i <;> rfl

/-- The SEQ operation an edge runs, from the input `rst` and the registers. -/
theorem selected_eq (s : State) :
    selected s = decodeSeqBits s.pins.rst (seqH s) (seqS s) (seqP s) s.run :=
  decodeSeq_ofBools _ _ _ _ _

/-- The meaning of the decoded SAMPLE word is the action of the priority chain. -/
theorem exec_sample (s : State) :
    exec (decodeSample (sampleWord s)) s = .next (runAction (action s.pins) s) := by
  unfold sampleWord action
  rw [decodeSample_ofBools]
  cases s.pins.startN <;> cases s.pins.pauseN <;> cases s.pins.resetN <;> rfl

/-- The meaning of the decoded BANK word is the BANK operation of its wires. -/
theorem exec_bank (k i : Bool) (s : State) :
    exec (decodeBank (bankWord k i)) s = .next (runBank k i s) := by
  unfold bankWord
  rw [decodeBank_ofBools]
  cases k <;> cases i <;> rfl

/-- Under `rst` the edge is a system reset, whatever the state. -/
theorem step_of_rst (s : State) (h : s.pins.rst = true) : step s = .next (closeEdge (resetRegisters s)) := by
  simp [step, edgeFaults, selected_eq, h, decodeSeqBits, exec, execSysReset, closeOutcome]

/-- With `rst` low an illegal state faults. -/
theorem step_of_illegal (s : State) (h : s.pins.rst = false) (hl : ¬ LegalState s) :
    step s = .fault (.illegalState s s.pins) := by
  simp [step, edgeFaults, h, (legal_eq_false_iff s).2 hl, raiseIllegalState]

/-- A step that does not fault runs the selected operation and closes the edge. -/
theorem step_runs (s : State) (h : s.pins.rst = false) (hl : LegalState s) :
    step s = closeOutcome (exec (selected s) s) := by
  simp [step, edgeFaults, h, (legal_iff s).2 hl]

/-- `rst = 0` and `HOLD ≠ 0` select `DWELL`. -/
theorem selected_dwell (s : State) (h : s.pins.rst = false) (hh : s.hold ≠ 0) :
    selected s = .dwell (seqS s) (seqP s) s.run := by
  have h0 : seqH s = false := by simpa [seqH] using hh
  rw [selected_eq, h, h0]; rfl

/-- `rst = 0`, `HOLD = 0` and `SLOT ≠ 3` select `SLOT_STEP`. -/
theorem selected_slotStep (s : State) (h : s.pins.rst = false) (hh : s.hold = 0) (h3 : s.slot ≠ 3) :
    selected s = .slotStep (seqP s) s.run := by
  have h0 : seqH s = true := by simpa [seqH] using hh
  have h1 : seqS s = false := by simpa [seqS] using h3
  rw [selected_eq, h, h0, h1]; rfl

/-- At the last position of a pass that is not the last, `PASS_STEP` is selected. -/
theorem selected_passStep (s : State) (h : s.pins.rst = false) (hh : s.hold = 0) (h3 : s.slot = 3)
    (hp : s.pass ≠ s.params.nPasses - 1) : selected s = .passStep s.run := by
  have h0 : seqH s = true := by simpa [seqH] using hh
  have h1 : seqS s = true := by simpa [seqS] using h3
  have h2 : seqP s = false := by simpa [seqP, lastPass] using hp
  rw [selected_eq, h, h0, h1, h2]; rfl

/-- At the end of a super-cycle, `RUN` selects `TICK_ADVANCE` over `TICK_IDLE`. -/
theorem selected_tick (s : State) (h : s.pins.rst = false) (hh : s.hold = 0) (h3 : s.slot = 3)
    (hp : s.pass = s.params.nPasses - 1) :
    selected s = if s.run = true then .tickAdvance else .tickIdle := by
  have h0 : seqH s = true := by simpa [seqH] using hh
  have h1 : seqS s = true := by simpa [seqS] using h3
  have h2 : seqP s = true := by simpa [seqP, lastPass] using hp
  rw [selected_eq, h, h0, h1, h2]; cases s.run <;> rfl

/-- With `rst` low and a count to hold, the edge is a dwell edge. -/
theorem step_of_hold (s : State) (h : s.pins.rst = false) (hl : LegalState s) (hh : s.hold ≠ 0) :
    step s = .next (closeEdge { s with hold := s.hold - 1 }) := by
  rw [step_runs s h hl, selected_dwell s h hh]; rfl

/-- Where a slot entry goes: the position after the present one, and whether a tick is due. -/
def entryPosition (s : State) : BitVec 2 × Nat × Bool :=
  if s.slot ≠ 3 then (s.slot + 1, s.pass, false)
  else if s.pass ≠ s.params.nPasses - 1 then (0, s.pass + 1, false)
  else (0, 0, s.run)

/-- The state a slot entry leaves before the edge closes. -/
def entryResult (s : State) : State :=
  entered (entryPosition s).1 (entryPosition s).2.1
    (if (entryPosition s).2.2 = true then advance s.bank else s.bank) s

/-- The selected slot-entry operation answers `entryResult`. -/
theorem exec_of_entry (s : State) (h : s.pins.rst = false) (hh : s.hold = 0) :
    exec (selected s) s = .next (entryResult s) := by
  by_cases h3 : s.slot = 3
  · by_cases hp : s.pass = s.params.nPasses - 1
    · have he : entryPosition s = (0, 0, s.run) := by simp [entryPosition, h3, hp]
      rw [selected_tick s h hh h3 hp, entryResult, he]
      cases s.run <;> simp [exec, execTickIdle, execTickAdvance, slotEntry_eq]
    · have he : entryPosition s = (0, s.pass + 1, false) := by simp [entryPosition, h3, hp]
      rw [selected_passStep s h hh h3 hp, entryResult, he]
      simp [exec, execPassStep, slotEntry_eq]
  · have he : entryPosition s = (s.slot + 1, s.pass, false) := if_pos h3
    rw [selected_slotStep s h hh h3, entryResult, he]
    simp [exec, execSlotStep, slotEntry_eq]

/-- With `rst` low and nothing to hold, the edge enters the next slot. -/
theorem step_of_entry (s : State) (h : s.pins.rst = false) (hl : LegalState s) (hh : s.hold = 0) :
    step s = .next (closeEdge (entryResult s)) := by
  rw [step_runs s h hl, exec_of_entry s h hh]; rfl

/-- A slot entry samples the buttons into `RUN`. -/
theorem entryResult_run (s : State) : (entryResult s).run = sampledRun s := rfl

/-- A slot entry's digits: the tick first, then the reset button. -/
theorem entryResult_bank (s : State) : (entryResult s).bank = clearedBy s (tickedBank s) := by
  show clearedBy s _ = _
  congr 1
  unfold entryPosition tickedBank
  by_cases h3 : s.slot = 3
  · by_cases hp : s.pass = s.params.nPasses - 1
    · rw [if_neg (not_not.2 h3), if_neg (not_not.2 hp)]; simp only [h3, hp, true_and]
    · rw [if_neg (not_not.2 h3), if_pos hp]; simp [hp]
  · rw [if_pos h3]; simp only [h3, false_and, if_false, Bool.false_eq_true]

/-- Everything a step that answers a next state can have done. -/
theorem step_cases (s t : State) (h : step s = .next t) :
    (s.pins.rst = true ∧ t = closeEdge (resetRegisters s)) ∨
    (s.pins.rst = false ∧ LegalState s ∧ s.hold ≠ 0 ∧ t = closeEdge { s with hold := s.hold - 1 }) ∨
    (s.pins.rst = false ∧ LegalState s ∧ s.hold = 0 ∧
      t = closeEdge (entryResult s)) := by
  cases hr : s.pins.rst with
  | true => rw [step_of_rst s hr] at h; cases h; exact .inl ⟨rfl, rfl⟩
  | false =>
    by_cases hl : LegalState s
    · by_cases hh : s.hold = 0
      · rw [step_of_entry s hr hl hh] at h; cases h; exact .inr (.inr ⟨rfl, hl, hh, rfl⟩)
      · rw [step_of_hold s hr hl hh] at h; cases h; exact .inr (.inl ⟨rfl, hl, hh, rfl⟩)
    · rw [step_of_illegal s hr hl] at h; cases h

end Sys2Proof.Machine
end

