-- ==== Sys2Proof/Laws/PerInstr.lean ====
section
/-! SUPPORT. One law per constructor of `Instr`: the word of an operation fits its control word's width and
lies in its own row of the opcode map (30_encoding.md R48 to R50). -/

namespace Sys2Proof.Laws.Encoding

/-- The encoding of `i` fits the width of its format, and `i`'s row, a row of the opcode map, selects it. -/
def Statement (i : Instr) : Prop :=
  i.wellFormed = true →
    encode i < 2 ^ i.format.width ∧ i.row.format = i.format ∧ i.row ∈ opcodeRows ∧
      i.row.selects (encode i) = true

theorem sysReset (h sl p u : Bool) : Statement (.sysReset h sl p u) := by
  intro _; cases h <;> cases sl <;> cases p <;> cases u <;> decide
theorem dwell (sl p u : Bool) : Statement (.dwell sl p u) := by
  intro _; cases sl <;> cases p <;> cases u <;> decide
theorem slotStep (p u : Bool) : Statement (.slotStep p u) := by
  intro _; cases p <;> cases u <;> decide
theorem passStep (u : Bool) : Statement (.passStep u) := by intro _; cases u <;> decide
theorem tickIdle : Statement .tickIdle := by intro _; decide
theorem tickAdvance : Statement .tickAdvance := by intro _; decide
theorem actStart (b c : Bool) : Statement (.actStart b c) := by
  intro _; cases b <;> cases c <;> decide
theorem actPause (c : Bool) : Statement (.actPause c) := by intro _; cases c <;> decide
theorem actReset : Statement .actReset := by intro _; decide
theorem actNone : Statement .actNone := by intro _; decide
theorem bcNop : Statement .bcNop := by intro _; decide
theorem bcInc : Statement .bcInc := by intro _; decide
theorem bcClr : Statement .bcClr := by intro _; decide
theorem bcClrInc : Statement .bcClrInc := by intro _; decide

end Sys2Proof.Laws.Encoding
end

