-- ==== Sys2Proof/Laws/Run.lean ====
section
/-! SUPPORT. Runs of several edges, one edge at a time, in terms of `step`. -/

namespace Sys2Proof.Machine

open Sys2Proof.Safety

/-- After an edge that answers a next state, the run goes on from it. -/
theorem run_of_next (n : Nat) (s u : State) (h : step s = .next u) :
    Host.Core.run Sys2Proof.core (n + 1) s = Host.Core.run Sys2Proof.core n u := by
  have h' : Sys2Proof.core.step s = .next u := h
  simp only [Host.Core.run]; rw [h']

/-- An edge that faults ends the run with its fault. -/
theorem run_of_fault (n : Nat) (s : State) (f : Fault) (h : step s = .fault f) :
    Host.Core.run Sys2Proof.core (n + 1) s = .fault f := by
  have h' : Sys2Proof.core.step s = .fault f := h
  simp only [Host.Core.run]; rw [h']

/-- No step refuses. -/
theorem step_next_or_fault (s : State) : (∃ t, step s = .next t) ∨ ∃ f, step s = .fault f := by
  cases hr : s.pins.rst with
  | true => exact .inl ⟨_, step_of_rst s hr⟩
  | false =>
    by_cases hl : LegalState s
    · by_cases hh : s.hold = 0
      · exact .inl ⟨_, step_of_entry s hr hl hh⟩
      · exact .inl ⟨_, step_of_hold s hr hl hh⟩
    · exact .inr ⟨_, step_of_illegal s hr hl⟩

/-- A run of no edge stays. -/
theorem reaches_zero (s t : State) : Reaches 0 s t ↔ t = s :=
  ⟨fun h => by cases h; rfl, fun h => by cases h; rfl⟩

/-- A run of `n + 1` edges is one step and a run of `n`. -/
theorem reaches_succ (n : Nat) (s t : State) :
    Reaches (n + 1) s t ↔ ∃ u, step s = .next u ∧ Reaches n u t := by
  unfold Reaches
  rcases step_next_or_fault s with ⟨u, h⟩ | ⟨f, h⟩
  · rw [run_of_next n s u h, h]
    exact ⟨fun h' => ⟨u, rfl, h'⟩, fun ⟨v, hv, h'⟩ => by cases hv; exact h'⟩
  · rw [run_of_fault n s f h, h]
    exact ⟨fun h' => (by cases h'), fun ⟨_, hv, _⟩ => (by cases hv)⟩

/-- Runs compose. -/
theorem reaches_add (m n : Nat) (s u t : State) (h1 : Reaches m s u) (h2 : Reaches n u t) :
    Reaches (m + n) s t := by
  induction m generalizing s with
  | zero => rw [reaches_zero] at h1; subst h1; rwa [Nat.zero_add]
  | succ m ih =>
    rw [reaches_succ] at h1
    obtain ⟨v, hv, hvu⟩ := h1
    rw [Nat.succ_add, reaches_succ]
    exact ⟨v, hv, ih v hvu⟩

/-- One edge moves the inputs one edge closer. -/
theorem step_inputsAt (s t : State) (h : step s = .next t) (j : Nat) : t.inputsAt j = s.inputsAt (j + 1) := by
  rcases step_cases s t h with ⟨-, rfl⟩ | ⟨-, -, -, rfl⟩ | ⟨-, -, -, rfl⟩ <;> rw [closeEdge_inputsAt] <;> rfl

/-- No step writes the parameters. -/
theorem step_params (s t : State) (h : step s = .next t) : t.params = s.params := by
  rcases step_cases s t h with ⟨-, rfl⟩ | ⟨-, -, -, rfl⟩ | ⟨-, -, -, rfl⟩ <;> rfl

end Sys2Proof.Machine
end

