-- ==== Sys2Proof/Tests/Slice0.lean ====
section
/-! SUPPORT. Tests. Expected values are those of 95_test_vectors.md (row named in each comment) or of a rule's
own example; the decode words are written out from 30_encoding.md. The last part gives, for every obligation
with hypotheses, a state and operands that meet them together. -/

namespace Sys2Proof.Tests

open Sys2Proof.Machine Sys2Proof.Safety

/-- The state of an answer, where there is one. -/
def after : Host.Outcome State Fault Refusal → Option State
  | .next t => some t
  | .fault _ => none
  | .refused _ => none

/-- Whether an answer is the model's fault. -/
def faults : Host.Outcome State Fault Refusal → Bool
  | .next _ => false
  | .fault _ => true
  | .refused _ => false

/-- A legal state whose display shows its slot, before an edge with the given stimulus word. -/
def small (p : Params) (d : DigitBank) (hold : Nat) (slot : BitVec 2) (pass : Nat) (run : Bool) (stim : BitVec 4) : State where
  params := p
  bank := d
  run := run
  slot := slot
  pass := pass
  hold := hold
  digEn := onehot4 slot
  bcdOut := d.digit slot
  k := false
  script := [pinsOf stim]
  edge := 0

/-- The parameters of table 2.3. -/
def p43 : Params := ⟨4, 3⟩

/-- The digits 00:09 of table 2.3. -/
def d0009 : DigitBank := ⟨9, 0, 0, 0⟩

/-- The registers table 2.3 prints after an edge. -/
structure Shown where
  hold : Nat
  slot : BitVec 2
  pass : Nat
  run : Bool
  digEn : BitVec 4
  bcdOut : Nibble
  bank : DigitBank
  deriving DecidableEq, Repr

/-- What table 2.3 prints of an answer. -/
def shown (o : Host.Outcome State Fault Refusal) : Option Shown :=
  (after o).map fun t => ⟨t.hold, t.slot, t.pass, t.run, t.digEn, t.bcdOut, t.bank⟩

/-! Well-formedness: a term each check refuses. -/

theorem test_params_zero_passes_refused : Params.wellFormed ⟨0, 5⟩ = false := by decide
theorem test_params_zero_dwell_refused : Params.wellFormed ⟨5, 0⟩ = false := by decide
theorem test_realTime_zero_clock_refused : RealTime.wellFormed ⟨0, 0⟩ = false := by decide
theorem test_realTime_negative_clock_refused : RealTime.wellFormed ⟨-1000, 0⟩ = false := by decide
theorem test_realTime_negative_tolerance_refused : RealTime.wellFormed ⟨1000, -1⟩ = false := by decide
theorem test_realTime_zero_tolerance_admitted : RealTime.wellFormed ⟨1000, 0⟩ = true := by decide
theorem test_script_zero_edges_refused : (ScriptLine.edges (pinsOf 7) 0).wellFormed = false := by decide
theorem test_script_zero_repeat_refused : (ScriptLine.op .idle 0).wellFormed = false := by decide
theorem test_script_slots_of_reset_refused : (ScriptLine.slots .reset 2).wellFormed = false := by decide
theorem test_script_zero_slots_refused : (ScriptLine.slots .start 0).wellFormed = false := by decide
theorem test_script_zero_passes_refused : (ScriptLine.passes 0).wellFormed = false := by decide
theorem test_script_zero_super_refused : (ScriptLine.super 0).wellFormed = false := by decide

/-! Decoding: each constructor by a word written out from R48, R49, R50. -/

theorem test_decode_sysReset : decodeWord .seq 0b11010 = .instr (.sysReset true false true false) := by decide
theorem test_decode_dwell : decodeWord .seq 0b00001 = .instr (.dwell false false true) := by decide
theorem test_decode_slotStep : decodeWord .seq 0b01010 = .instr (.slotStep true false) := by decide
theorem test_decode_passStep : decodeWord .seq 0b01101 = .instr (.passStep true) := by decide
theorem test_decode_tickIdle : decodeWord .seq 0b01110 = .instr .tickIdle := by decide
theorem test_decode_tickAdvance : decodeWord .seq 0b01111 = .instr .tickAdvance := by decide
theorem test_decode_actStart : decodeWord .sample 0b010 = .instr (.actStart true false) := by decide
theorem test_decode_actPause : decodeWord .sample 0b100 = .instr (.actPause false) := by decide
theorem test_decode_actReset : decodeWord .sample 0b110 = .instr .actReset := by decide
theorem test_decode_actNone : decodeWord .sample 0b111 = .instr .actNone := by decide
theorem test_decode_bcNop : decodeWord .bank 0b00 = .instr .bcNop := by decide
theorem test_decode_bcInc : decodeWord .bank 0b01 = .instr .bcInc := by decide
theorem test_decode_bcClr : decodeWord .bank 0b10 = .instr .bcClr := by decide
theorem test_decode_bcClrInc : decodeWord .bank 0b11 = .instr .bcClrInc := by decide
theorem test_decode_too_wide : decodeWord .bank 4 = .tooWide .bank 4 := by decide
theorem test_table_word_by_width :
    decodeTableWord 5 0 = some (.dwell false false false) ∧
    decodeTableWord 3 0 = some (.actStart false false) ∧
    decodeTableWord 2 0 = some .bcNop := by decide
theorem test_table_word_in_a_byte :
    decodeTableWord 8 0x10 = some (.sysReset false false false false) ∧
    decodeTableWord 8 0x0C = some (.passStep false) ∧ decodeTableWord 8 6 = some .actReset ∧
    decodeTableWord 8 1 = some .bcInc ∧ decodeTableWord 8 0x20 = none := by decide

/-! The BANK family: table 2.1. -/

theorem test_bcNop_keeps : (after (exec .bcNop (small p43 ⟨4, 3, 2, 1⟩ 0 0 0 true 7))).map (·.bank) =
    some ⟨4, 3, 2, 1⟩ := by decide
theorem test_bcInc_carry_to_tens_of_minutes :
    (after (exec .bcInc (small p43 ⟨9, 5, 9, 0⟩ 0 0 0 true 7))).map (·.bank) = some ⟨0, 0, 0, 1⟩ := by decide
theorem test_bcInc_wraps : (after (exec .bcInc (small p43 ⟨9, 5, 9, 5⟩ 0 0 0 true 7))).map (·.bank) =
    some ⟨0, 0, 0, 0⟩ := by decide
theorem test_bcClr_clears_and_keeps_run :
    (after (exec .bcClr (small p43 ⟨2, 4, 7, 3⟩ 0 0 0 true 7))).map (fun t => (t.bank, t.run)) =
      some (⟨0, 0, 0, 0⟩, true) := by decide
theorem test_bcClrInc_clears : (after (exec .bcClrInc (small p43 ⟨9, 5, 9, 5⟩ 0 0 0 true 7))).map (·.bank) =
    some ⟨0, 0, 0, 0⟩ := by decide
/-- The carry-chain signals printed under table 2.1. -/
theorem test_carry_chain_signals :
    [(⟨9, 0, 0, 0⟩ : DigitBank), ⟨9, 5, 0, 0⟩, ⟨9, 5, 9, 0⟩, ⟨9, 5, 9, 5⟩, ⟨9, 5, 0, 5⟩, ⟨9, 0, 5, 0⟩].map
      (fun d => (carry0 d, carry1 d, carry2 d, carry3 d)) =
    [(true, false, false, false), (true, true, false, false), (true, true, true, false),
     (true, true, true, true), (true, true, false, false), (true, false, false, false)] := by decide
/-- W1. -/
theorem test_ofTime_of_W1 :
    [0, 1, 59, 60, 61, 599, 600, 3599, 3600].map DigitBank.ofTime =
    [⟨0, 0, 0, 0⟩, ⟨1, 0, 0, 0⟩, ⟨9, 5, 0, 0⟩, ⟨0, 0, 1, 0⟩, ⟨1, 0, 1, 0⟩, ⟨9, 5, 9, 0⟩, ⟨0, 0, 0, 1⟩,
     ⟨9, 5, 9, 5⟩, ⟨0, 0, 0, 0⟩] := by decide
/-- W2, corrected by conflict C1. -/
theorem test_ten_advances_from_0009 : advance^[10] ⟨9, 0, 0, 0⟩ = ⟨9, 1, 0, 0⟩ := by decide

/-! The SAMPLE family: table 2.2, from 12:34 on a slot-entry edge that credits no tick. -/

theorem test_sample_column_of_stopped :
    [0, 1, 2, 3, 4, 5, 6, 7].map
      (fun w => (after (step (small p43 ⟨4, 3, 2, 1⟩ 0 0 0 false w))).map fun t => (t.run, t.bank)) =
    [some (true, ⟨4, 3, 2, 1⟩), some (true, ⟨4, 3, 2, 1⟩), some (true, ⟨4, 3, 2, 1⟩),
     some (true, ⟨4, 3, 2, 1⟩), some (false, ⟨4, 3, 2, 1⟩), some (false, ⟨4, 3, 2, 1⟩),
     some (false, ⟨0, 0, 0, 0⟩), some (false, ⟨4, 3, 2, 1⟩)] := by decide
theorem test_sample_column_of_running :
    [0, 1, 2, 3, 4, 5, 6, 7].map
      (fun w => (after (step (small p43 ⟨4, 3, 2, 1⟩ 0 0 0 true w))).map fun t => (t.run, t.bank)) =
    [some (true, ⟨4, 3, 2, 1⟩), some (true, ⟨4, 3, 2, 1⟩), some (true, ⟨4, 3, 2, 1⟩),
     some (true, ⟨4, 3, 2, 1⟩), some (false, ⟨4, 3, 2, 1⟩), some (false, ⟨4, 3, 2, 1⟩),
     some (false, ⟨0, 0, 0, 0⟩), some (true, ⟨4, 3, 2, 1⟩)] := by decide

/-! The SEQ family: table 2.3. -/

theorem test_S2_dwell_at_the_last_slot :
    shown (step (small p43 d0009 1 3 3 true 7)) = some ⟨0, 3, 3, true, 0b1000, 0, d0009⟩ := by decide
theorem test_S3_slotStep :
    shown (step (small p43 d0009 0 0 2 true 7)) = some ⟨2, 1, 2, true, 0b0010, 0, d0009⟩ := by decide
theorem test_S11_slotStep_reset :
    shown (step (small p43 ⟨2, 4, 0, 0⟩ 0 1 0 true 6)) =
      some ⟨2, 2, 0, false, 0b0100, 0, ⟨0, 0, 0, 0⟩⟩ := by decide
theorem test_S5_passStep :
    shown (step (small p43 d0009 0 3 1 true 7)) = some ⟨2, 0, 2, true, 0b0001, 9, d0009⟩ := by decide
theorem test_S6_tickIdle :
    shown (step (small p43 d0009 0 3 3 false 7)) = some ⟨2, 0, 0, false, 0b0001, 9, d0009⟩ := by decide
theorem test_S10_tickIdle_start :
    shown (step (small p43 d0009 0 3 3 false 3)) = some ⟨2, 0, 0, true, 0b0001, 9, d0009⟩ := by decide
theorem test_S8_tickAdvance_pause :
    shown (step (small p43 d0009 0 3 3 true 5)) = some ⟨2, 0, 0, false, 0b0001, 0, ⟨0, 1, 0, 0⟩⟩ := by decide
theorem test_S9_tickAdvance_reset :
    shown (step (small p43 d0009 0 3 3 true 6)) = some ⟨2, 0, 0, false, 0b0001, 0, ⟨0, 0, 0, 0⟩⟩ := by decide
theorem test_S12_tickAdvance_smallest_block :
    shown (step (small ⟨1, 1⟩ d0009 0 3 0 true 7)) = some ⟨0, 0, 0, true, 0b0001, 0, ⟨0, 1, 0, 0⟩⟩ := by decide
theorem test_S13_sysReset :
    shown (step (small p43 ⟨2, 4, 7, 3⟩ 1 2 1 true 0xF)) =
      some ⟨0, 3, 3, false, 0b0000, 0, ⟨0, 0, 0, 0⟩⟩ := by decide
/-- The SEQ words table 2.3 prints for S1 to S7. -/
theorem test_seq_words_of_S1_to_S7 :
    [small p43 d0009 2 1 0 true 7, small p43 d0009 1 3 3 true 7, small p43 d0009 0 0 2 true 7,
     small p43 d0009 0 2 1 false 7, small p43 d0009 0 3 1 true 7, small p43 d0009 0 3 3 false 7,
     small p43 d0009 0 3 3 true 7].map seqWord =
    [0b00001, 0b00111, 0b01001, 0b01000, 0b01101, 0b01110, 0b01111] := by decide

/-! The fault: table 2.4. -/

theorem test_faults_of_table_2_4 :
    (faults (step (small p43 ⟨10, 0, 0, 0⟩ 0 0 0 true 7)) && faults (step (small p43 ⟨0, 6, 0, 0⟩ 0 0 0 true 7)) &&
     faults (step (small p43 ⟨0, 0, 0, 7⟩ 0 0 0 true 7)) && faults (step (small ⟨3, 3⟩ d0009 0 0 3 true 7)) &&
     faults (step (small ⟨3, 3⟩ d0009 3 0 0 true 7)) &&
     faults (step { small p43 d0009 0 0 0 true 7 with digEn := 0b0011 })) = true := by decide
theorem test_reset_mends_illegal_state :
    shown (step (small p43 ⟨10, 6, 0, 7⟩ 9 1 9 true 0xF)) =
      some ⟨0, 3, 3, false, 0b0000, 0, ⟨0, 0, 0, 0⟩⟩ := by decide

/-! Scripts, ports and placing words. -/

/-- The first lines of P4. -/
theorem test_read_script_lines :
    readScript [['R', 'E', 'S', 'E', 'T', ' ', ' ', '#', ' ', 'e', '0'], ['E', ' ', '0', '0', '1', '0'],
      ['I', 'D', 'L', 'E', ' ', 'x', '1', '2'], ['#', 'x'], ['S', 'U', 'P', 'E', 'R', ' ', '2']] =
    some [.op .reset 1, .edges (pinsOf 2) 1, .op .idle 12, .super 2] := by decide
theorem test_read_zero_repeat_refused : readScript [['I', 'D', 'L', 'E', ' ', 'x', '0']] = none := by decide
/-- The encoding of P4: `F 2 7×4 4 6`. -/
theorem test_encoding_of_P4 :
    [ScriptLine.op .reset 1, .edges ⟨false, false, true, false⟩ 1, .op .idle 4,
      .edges ⟨false, true, false, false⟩ 1, .op .rstbtn 1].flatMap (·.encoding ⟨1, 1⟩) =
    [0xF, 0x2, 0x7, 0x7, 0x7, 0x7, 0x4, 0x6] := by decide
theorem test_time_bcd_order : (small p43 ⟨4, 3, 2, 1⟩ 0 0 0 true 7).outputs.timeBcd = 0x1234 := by decide
/-- The illustrative choice of R111: T_pass = 20 ms and T_tick = 1 s. -/
theorem test_illustrative_timing :
    passTime ⟨50, 5⟩ ⟨1000, 0⟩ = 1 / 50 ∧ tickTime ⟨50, 5⟩ ⟨1000, 0⟩ = 1 := by
  norm_num [passTime, tickTime, slotTime, slotEdges, superEdges]
/-- The same choice meets the constraint of R7 with no deviation at all; a clock of 999 Hz does not. -/
theorem test_illustrative_timing_in_tolerance :
    tickInTolerance ⟨50, 5⟩ ⟨1000, 0⟩ = true ∧ tickInTolerance ⟨50, 5⟩ ⟨999, 0⟩ = false := by
  norm_num [tickInTolerance, RealTime.wellFormed, tickTime, superEdges]
theorem test_placed_word_runs_first :
    selected (State.reset.withFetchWord 5 0x00) = .dwell false false false ∧
    selected (State.reset.withFetchWord 8 0x0F) = .tickAdvance ∧
    sampleWord (State.reset.withFetchWord 8 6) = 6 ∧
    (after (step (State.reset.withFetchWord 8 1))).map (·.bank) = some ⟨1, 0, 0, 0⟩ := by decide

/-! Witnesses: states and operands that meet the hypotheses of the obligations. -/

/-- A legal state on a slot-entry edge. -/
def entry : State := small p43 d0009 0 0 0 true 7

theorem test_meets_DecodeOfEncodeGivesTheOperation : Instr.wellFormed (.sysReset true true true true) = true := by decide
theorem test_meets_EveryWordLiesInExactlyOneRow : 31 < 2 ^ Format.seq.width ∧ 7 < 2 ^ Format.sample.width := by decide
theorem test_meets_NumbersWiderThanTheFormatAreRejected : 2 ^ Format.seq.width ≤ 32 := by decide
theorem test_meets_IncrementCarriesDigitByDigit :
    (small p43 ⟨9, 5, 9, 5⟩ 0 0 0 true 7).bank.legal = true ∧ DigitBank.legal ⟨8, 5, 9, 5⟩ = true := by decide
theorem test_meets_AdvanceObeysTheArithmeticLaws :
    DigitBank.legal ⟨9, 5, 9, 5⟩ = true ∧ 0 < 3599 ∧ 3599 < 3600 ∧ advance ⟨9, 5, 9, 5⟩ = advance ⟨9, 5, 9, 5⟩ := by
  decide
theorem test_meets_TimeValueNumbersTheLegalTuples : DigitBank.legal ⟨0, 0, 0, 0⟩ = true ∧ 3599 < 3600 := by decide
theorem test_meets_CarryChainEqualsAdvance : DigitBank.legal ⟨9, 5, 9, 5⟩ = true := by decide
/-- Start masks pause and reset. -/
theorem test_meets_PriorityStartOverPauseOverReset_start :
    (pinsOf 0).rst = (pinsOf 3).rst ∧ (pinsOf 0).startN = false ∧ (pinsOf 3).startN = false ∧
    ∃ t, step { entry with script := pinsOf 0 :: [] } = .next t := ⟨rfl, rfl, rfl, _, rfl⟩
/-- Pause masks reset. -/
theorem test_meets_PriorityStartOverPauseOverReset_pause :
    (pinsOf 4).startN = (pinsOf 5).startN ∧ (pinsOf 4).pauseN = false ∧ (pinsOf 5).pauseN = false ∧
    ∃ t, step { entry with script := pinsOf 4 :: [] } = .next t := ⟨rfl, rfl, rfl, _, rfl⟩
theorem test_meets_ButtonsAreSampledOnSlotEntryOnly : LegalState entry ∧ EntersSlot entry := by
  unfold LegalState EntersSlot; decide
theorem test_meets_ButtonsAreSampledOnSlotEntryOnly_dwell :
    (small p43 d0009 2 0 0 true 7).hold ≠ 0 ∧
    ∃ t, step { small p43 d0009 2 0 0 true 7 with script := pinsOf 3 :: [] } = .next t := ⟨by decide, _, rfl⟩
theorem test_meets_ButtonsAreSampledOnSlotEntryOnly_rst :
    (pinsOf 8).rst = true ∧ ∃ t, step { entry with script := pinsOf 8 :: [] } = .next t := ⟨rfl, _, rfl⟩
theorem test_meets_RunStateMachineFollowsItsTable :
    LegalState (small p43 d0009 0 3 3 true 6) ∧ EntersSlot (small p43 d0009 0 3 3 true 6) := by
  unfold LegalState EntersSlot; decide
theorem test_meets_DwellCountsHoldDown :
    (small p43 d0009 2 0 0 true 7).pins.rst = false ∧ (small p43 d0009 2 0 0 true 7).hold ≠ 0 := by decide
/-- The last DWELL edge of a slot. -/
theorem test_meets_DwellCountsHoldDown_last : (small p43 d0009 1 0 0 true 7).hold ≠ 0 := by decide
theorem test_meets_DwellCountsHoldDown_one_edge :
    LegalState (small ⟨1, 1⟩ d0009 0 0 0 true 7) ∧ (small ⟨1, 1⟩ d0009 0 0 0 true 7).params.dwellCycles = 1 := by
  unfold LegalState; decide
theorem test_meets_SlotStepEntersTheNextPosition : EntersSlot entry ∧ entry.slot ≠ 3 := by
  unfold EntersSlot; decide
theorem test_meets_SlotStepEntersTheNextPosition_last : (small p43 d0009 0 2 0 true 7).slot ≠ 3 := by decide
/-- The last PASS_STEP of a super-cycle. -/
theorem test_meets_PassStepBeginsTheNextPass_last :
    (small p43 d0009 0 3 2 true 7).pass < (small p43 d0009 0 3 2 true 7).params.nPasses - 1 := by decide
theorem test_meets_PassStepBeginsTheNextPass :
    EntersSlot (small p43 d0009 0 3 2 true 7) ∧ (small p43 d0009 0 3 2 true 7).slot = 3 ∧
    (small p43 d0009 0 3 2 true 7).pass ≠ (small p43 d0009 0 3 2 true 7).params.nPasses - 1 := by
  unfold EntersSlot; decide
theorem test_meets_PassStepBeginsTheNextPass_one_pass :
    LegalState (small ⟨1, 1⟩ d0009 0 3 0 true 7) ∧ (small ⟨1, 1⟩ d0009 0 3 0 true 7).params.nPasses = 1 := by
  unfold LegalState; decide
theorem test_meets_TickIdleCreditsNothing :
    EndsSuperCycle (small p43 d0009 0 3 3 false 7) ∧ (small p43 d0009 0 3 3 false 7).run = false := by
  unfold EndsSuperCycle EntersSlot; decide
theorem test_meets_TickAdvanceCreditsOneTick :
    EndsSuperCycle (small p43 d0009 0 3 3 true 7) ∧ (small p43 d0009 0 3 3 true 7).run = true := by
  unfold EndsSuperCycle EntersSlot; decide
theorem test_meets_TickAdvanceCreditsOneTick_wrap :
    (small p43 ⟨9, 5, 9, 5⟩ 0 3 3 true 7).bank.legal = true := by decide
theorem test_meets_OutsideItsConditionAnOperationFollowsItsPseudocode :
    (small p43 ⟨15, 6, 10, 7⟩ 0 3 3 true 7).hold = 0 ∧ (small p43 ⟨15, 6, 10, 7⟩ 0 3 3 true 7).slot = 3 ∧
    p43.nPasses - 1 ≤ (small p43 ⟨15, 6, 10, 7⟩ 0 3 3 true 7).pass ∧
    (small p43 ⟨15, 6, 10, 7⟩ 0 3 3 true 7).bank.legal = false := by decide
theorem test_meets_SlotEntryRunsSampleThenBankThenDisplay :
    entersBy (.slotStep true true) = true ∧ entersBy .tickAdvance = true := by decide
theorem test_meets_TickThenActionThenDisplay : EntersSlot (small p43 d0009 0 3 3 true 6) := by
  unfold EntersSlot; decide
theorem test_meets_SystemResetFromAnyState : (small p43 ⟨10, 6, 0, 7⟩ 9 1 9 true 0xF).pins.rst = true := by decide
theorem test_meets_SystemResetFromAnyState_fault :
    ∃ f, Host.Core.run Sys2Proof.core 1 (small p43 ⟨10, 0, 0, 0⟩ 0 0 0 true 7) = .fault f := ⟨_, rfl⟩
theorem test_meets_ResetEdgeLeavesTheListedRegisters :
    (small p43 ⟨10, 6, 0, 7⟩ 9 1 9 true 0xF).pins.rst = true := by decide
theorem test_meets_ResetLeavesTheListedValues : (small p43 d0009 1 1 1 true 0xF).pins.rst = true := by decide

/-- The reset state of a block with `N_PASSES = DWELL_CYCLES = 1`, before five edges: start, then no button. -/
def started : State :=
  { State.reset with params := ⟨1, 1⟩, pass := 0, script := [pinsOf 3, pinsOf 7, pinsOf 7, pinsOf 7, pinsOf 7] }

theorem test_meets_FirstEdgeAfterResetIsTickIdle : AtReset started ∧ started.pins.rst = false := by
  unfold AtReset; decide
theorem test_meets_StepRunsTheDecodedOperation : LegalState entry := by unfold LegalState; decide
theorem test_meets_FaultExactlyOnIllegalStates :
    (small p43 ⟨0, 6, 0, 0⟩ 0 0 0 true 7).pins.rst = false ∧ ¬ LegalState (small p43 ⟨0, 6, 0, 0⟩ 0 0 0 true 7) := by
  unfold LegalState; decide
theorem test_meets_EveryStepKeepsTheLegalState : LegalState entry ∧ ∃ t, step entry = .next t :=
  ⟨by unfold LegalState; decide, _, rfl⟩
theorem test_meets_EveryStepKeepsTheDisplayOnItsSlot :
    entry.pins.rst = false ∧ ShowsSlot entry ∧ ∃ t, step entry = .next t :=
  ⟨rfl, by unfold ShowsSlot; decide, _, rfl⟩
theorem test_meets_OneDigitEnabledFromTheFirstEdgeOn : AtReset started ∧ NoReset 5 started := by
  unfold AtReset NoReset; decide
theorem test_meets_LegalStatesRunForever : LegalState started := by unfold LegalState; decide
theorem test_meets_SequenceIgnoresButtonsAndRun :
    (∃ t, step (small p43 d0009 0 3 3 true 6) = .next t) ∧
    ∃ t, step (small p43 ⟨0, 0, 0, 0⟩ 0 3 3 false 3) = .next t := ⟨⟨_, rfl⟩, _, rfl⟩
theorem test_meets_DigitsChangeOnlyByTickOrReset :
    entry.pins.rst = false ∧ ∃ t, step entry = .next t := ⟨rfl, _, rfl⟩
theorem test_meets_SequencePositionAfterReset :
    started.params.wellFormed = true ∧ AtReset started ∧ NoReset 5 started := by
  unfold AtReset NoReset; decide
theorem test_meets_SuperCyclesCountSeconds :
    started.params.wellFormed = true ∧ AtReset started ∧
    NoReset (1 + superEdges started.params * 1) started ∧ started.pins.startN = false ∧
    ∀ j < 1 + superEdges started.params * 1, (started.inputsAt j).startN = false ∨
      (started.inputsAt j).pauseN = true ∧ (started.inputsAt j).resetN = true := by
  unfold AtReset NoReset; decide

/-- A legal state in the middle of a slot, before three edges with the same stimulus word. -/
def held (stim : BitVec 4) : State :=
  { small p43 d0009 1 0 0 true stim with script := [pinsOf stim, pinsOf stim, pinsOf stim] }

theorem test_meets_PressHeldForASlotIsSeen_start :
    (held 0).params.wellFormed = true ∧ LegalState (held 0) ∧ NoReset 3 (held 0) ∧
    ∀ j < 3, ((held 0).inputsAt j).startN = false := by unfold LegalState NoReset; decide
theorem test_meets_PressHeldForASlotIsSeen_pause :
    LegalState (held 4) ∧ NoReset 3 (held 4) ∧
    ∀ j < 3, ((held 4).inputsAt j).startN = true ∧ ((held 4).inputsAt j).pauseN = false := by
  unfold LegalState NoReset; decide
theorem test_meets_PressHeldForASlotIsSeen_reset :
    LegalState (held 6) ∧ NoReset 3 (held 6) ∧
    ∀ j < 3, ((held 6).inputsAt j).startN = true ∧ ((held 6).inputsAt j).pauseN = true ∧
      ((held 6).inputsAt j).resetN = false := by unfold LegalState NoReset; decide
theorem test_meets_OperationsWriteOnlyTheirRegisters :
    (∃ t, exec (.slotStep true true) entry = .next t) ∧ resetPressed entry = false ∧
    entry.pins.startN = true ∧ entry.pins.pauseN = true ∧ entry.pins.resetN = true :=
  ⟨⟨_, rfl⟩, rfl, rfl, rfl, rfl⟩
theorem test_meets_ParametersAreFixedAndInputsUsedInOrder : ∃ t, Reaches 1 entry t := ⟨_, rfl⟩
theorem test_meets_LegalCountersFitTheirWidths : entry.params.wellFormed = true ∧ LegalState entry := by
  unfold LegalState; decide
theorem test_meets_PlacedWordsAreTheNextWords :
    LegalState State.reset ∧ 2 ≤ State.reset.params.nPasses ∧ 2 ≤ State.reset.params.dwellCycles ∧
    31 < 32 ∧ 7 < 8 ∧ 3 < 4 := by unfold LegalState; decide
theorem test_meets_TickTimeIsPassesOfFourSlots :
    Params.wellFormed ⟨1, 1⟩ = true ∧ RealTime.wellFormed ⟨4, 0⟩ = true ∧
    RealTime.wellFormed ⟨0, 1⟩ = false := by decide

end Sys2Proof.Tests
end

section
/-! PROOFS. The observation ports (10_state.md R28) and the registers after a reset edge (R30). -/

namespace Sys2Proof.Machine

open Sys2Proof.Safety

/-! ### The fields of `time_bcd` -/

/-- Bits 15:12 lie above the three digits appended after `MT`. -/
theorem timeBcd_extract_mt (s : State) : s.outputs.timeBcd.extractLsb' 12 4 = s.bank.mt := by
  rw [State.outputs, BitVec.extractLsb'_append_eq_of_le (by decide),
    BitVec.extractLsb'_append_eq_of_le (by decide), BitVec.extractLsb'_append_eq_left]

theorem timeBcd_extract_mu (s : State) : s.outputs.timeBcd.extractLsb' 8 4 = s.bank.mu := by
  rw [State.outputs, BitVec.extractLsb'_append_eq_of_le (by decide),
    BitVec.extractLsb'_append_eq_of_le (by decide), BitVec.extractLsb'_append_eq_right]

theorem timeBcd_extract_st (s : State) : s.outputs.timeBcd.extractLsb' 4 4 = s.bank.st := by
  rw [State.outputs, BitVec.extractLsb'_append_eq_of_le (by decide), BitVec.extractLsb'_append_eq_right]

theorem timeBcd_extract_su (s : State) : s.outputs.timeBcd.extractLsb' 0 4 = s.bank.su := by
  rw [State.outputs, BitVec.extractLsb'_append_eq_right]

/-- Settles O40: the four digit fields one by one; the other ports are the registers themselves. -/
theorem observationPortsShowDigitsAndRun : Obligations.ObservationPortsShowDigitsAndRun := fun s =>
  ⟨timeBcd_extract_mt s, timeBcd_extract_mu s, timeBcd_extract_st s, timeBcd_extract_su s, rfl, rfl, rfl⟩

/-! ### The reset edge -/

/-- The end of the edge keeps the reset values: it writes the model's own fields only. -/
theorem atReset_closeEdge_resetRegisters (s : State) : AtReset (closeEdge (resetRegisters s)) := by
  simp [AtReset, lastPass]

/-- Under `rst` a step reaches the reset values, with the parameters it started from. -/
theorem step_atReset_of_rst (s : State) (h : s.pins.rst = true) :
    ∃ t, step s = .next t ∧ AtReset t ∧ t.params = s.params :=
  ⟨_, step_of_rst s h, atReset_closeEdge_resetRegisters s, rfl⟩

/-- Settles O46: a reset edge ends in a state at reset, whose zero bank is four zero digits. -/
theorem resetEdgeLeavesTheListedRegisters : Obligations.ResetEdgeLeavesTheListedRegisters := by
  intro s h
  obtain ⟨t, ht, ⟨hbank, hrun, hslot, hpass, hhold, hdigEn, hbcdOut⟩, hparams⟩ := step_atReset_of_rst s h
  have hdigits : t.bank.su = 0 ∧ t.bank.st = 0 ∧ t.bank.mu = 0 ∧ t.bank.mt = 0 := by
    rw [hbank]; exact ⟨rfl, rfl, rfl, rfl⟩
  exact ⟨t, ht, hdigits, hrun, hslot, hpass, hparams, hhold, hdigEn, hbcdOut⟩

end Sys2Proof.Machine
end

section
/-! PROOFS. The order of tick, action and display load on a slot-entry edge (20_memory.md R39). -/

namespace Sys2Proof.Machine

open Sys2Proof.Safety

/-- The BANK operation due by the tick alone writes the ticked digits: `RUN` and the digits it reads are those
before the edge (42_sequencer.md R78). -/
theorem exec_tick (s : State) :
    exec (if s.slot = 3 ∧ s.pass = s.params.nPasses - 1 ∧ s.run = true then .bcInc else .bcNop) s =
      .next (writeBank (tickedBank s) s) := by
  unfold tickedBank
  split
  · rfl
  · rfl

/-- Writing digits does not touch the buttons, so the SAMPLE word formed before the edge still names the action. -/
theorem exec_sample_writeBank (d : DigitBank) (s : State) :
    exec (decodeSample (sampleWord s)) (writeBank d s) = .next (runAction (action s.pins) (writeBank d s)) :=
  exec_sample (writeBank d s)

/-- `BC_CLR` or `BC_NOP`, by `k`, is the BANK operation of the wires `{k, 0}`. -/
theorem exec_clear (k : Bool) (s : State) :
    exec (if k = true then .bcClr else .bcNop) s = .next (runBank k false s) := by
  cases k with
  | false => rfl
  | true => rfl

/-- The digits after the action and the clear it asks for, where the reset button alone clears. -/
theorem runBank_runAction_bank (s : State) (d : DigitBank) :
    (runBank (runAction (action s.pins) (writeBank d s)).k false
      (runAction (action s.pins) (writeBank d s))).bank = clearedBy s d := by
  simp only [runBank_eq, runAction_eq, action_eq_reset_iff, Bool.decide_eq_true]
  rfl

/-- The action gives `RUN` its value, whatever the digits; the BANK operation after it leaves that value. -/
theorem runBank_runAction_run (s : State) (d : DigitBank) (k : Bool) :
    (runBank k false (runAction (action s.pins) (writeBank d s))).run = sampledRun s := by
  simp only [runBank_eq, runAction_eq, writeBank_run, runAfter_action]

/-- Settles O21: the selected operation answers `entryResult`; its digits are the ticked ones after the reset
button and its `RUN` the sampled one, which is what the three operations leave one after the other. -/
theorem tickThenActionThenDisplay : Obligations.TickThenActionThenDisplay := by
  intro s ⟨hrst, hhold⟩
  refine ⟨_, _, _, entryResult s, exec_tick s, exec_sample_writeBank _ s, exec_clear _ _,
    exec_of_entry s hrst hhold, ?bank, ?run, rfl, ?bcdOut⟩
  case bank => rw [entryResult_bank, runBank_runAction_bank]
  case run => rw [entryResult_run, runBank_runAction_run]
  case bcdOut => rw [runBank_runAction_bank, ← entryResult_bank]; rfl

end Sys2Proof.Machine
end

section
/-! PROOFS. The opcode map covers every SEQ, SAMPLE and BANK word once (30_encoding.md R48 to R50). -/

namespace Sys2Proof

/-! ### Every word is the word of an operation -/

/-- Row by row of R48: the operation the bits select is a SEQ operation, and its word has those bits. -/
theorem decodeSeqBits_word : ∀ r h sl p u : Bool, (decodeSeqBits r h sl p u).format = .seq ∧
    encode (decodeSeqBits r h sl p u) =
      16 * r.toNat + 8 * h.toNat + 4 * sl.toNat + 2 * p.toNat + u.toNat
  | true, _, _, _, _ => ⟨rfl, rfl⟩
  | false, false, _, _, _ => ⟨rfl, rfl⟩
  | false, true, false, _, _ => ⟨rfl, rfl⟩
  | false, true, true, false, _ => ⟨rfl, rfl⟩
  | false, true, true, true, false => ⟨rfl, rfl⟩
  | false, true, true, true, true => ⟨rfl, rfl⟩

/-- Row by row of R49. -/
theorem decodeSampleBits_word : ∀ a b c : Bool, (decodeSampleBits a b c).format = .sample ∧
    encode (decodeSampleBits a b c) = 4 * a.toNat + 2 * b.toNat + c.toNat
  | false, _, _ => ⟨rfl, rfl⟩
  | true, false, _ => ⟨rfl, rfl⟩
  | true, true, false => ⟨rfl, rfl⟩
  | true, true, true => ⟨rfl, rfl⟩

/-- Row by row of R50. -/
theorem decodeBankBits_word : ∀ k i : Bool, (decodeBankBits k i).format = .bank ∧
    encode (decodeBankBits k i) = 2 * k.toNat + i.toNat
  | false, false => ⟨rfl, rfl⟩
  | false, true => ⟨rfl, rfl⟩
  | true, false => ⟨rfl, rfl⟩
  | true, true => ⟨rfl, rfl⟩

/-- A number that fits the format is the sum of its bits, so the operation its bits select has it as word. -/
theorem exists_encode_eq (f : Format) (w : Nat) (hw : w < 2 ^ f.width) :
    ∃ i : Instr, i.format = f ∧ encode i = w := by
  cases f with
  | seq =>
    obtain ⟨hformat, hword⟩ :=
      decodeSeqBits_word (w.testBit 4) (w.testBit 3) (w.testBit 2) (w.testBit 1) (w.testBit 0)
    refine ⟨_, hformat, hword.trans ?_⟩
    simp only [Nat.toNat_testBit, Format.width] at hw ⊢
    omega
  | sample =>
    obtain ⟨hformat, hword⟩ := decodeSampleBits_word (w.testBit 2) (w.testBit 1) (w.testBit 0)
    refine ⟨_, hformat, hword.trans ?_⟩
    simp only [Nat.toNat_testBit, Format.width] at hw ⊢
    omega
  | bank =>
    obtain ⟨hformat, hword⟩ := decodeBankBits_word (w.testBit 1) (w.testBit 0)
    refine ⟨_, hformat, hword.trans ?_⟩
    simp only [Nat.toNat_testBit, Format.width] at hw ⊢
    omega

/-! ### No word is the word of two operations -/

/-- Decoding undoes encoding, for each value of the don't-care bits. -/
theorem decodeWord_encode (i : Instr) : decodeWord i.format (encode i) = .instr i := by
  cases i with
  | sysReset h sl p u => cases h <;> cases sl <;> cases p <;> cases u <;> rfl
  | dwell sl p u => cases sl <;> cases p <;> cases u <;> rfl
  | slotStep p u => cases p <;> cases u <;> rfl
  | passStep u => cases u <;> rfl
  | actStart b c => cases b <;> cases c <;> rfl
  | actPause c => cases c <;> rfl
  | tickIdle | tickAdvance | actReset | actNone | bcNop | bcInc | bcClr | bcClrInc => rfl

/-- The word of a format determines its operation: decoding reads it back. -/
theorem encode_injective_of_format {i j : Instr} (hf : j.format = i.format) (hw : encode j = encode i) : j = i := by
  have h : Decoded.instr j = .instr i := by
    rw [← decodeWord_encode j, ← decodeWord_encode i, hf, hw]
  exact Decoded.instr.inj h

/-! ### The rows do not overlap -/

/-- Two rows that select one word agree on the bits both masks cover. -/
theorem OpcodeRow.agree_of_selects {r r' : OpcodeRow} {w : Nat} (h : r.selects w = true) (h' : r'.selects w = true) :
    r.matchBits &&& r'.mask = r'.matchBits &&& r.mask := by
  rw [OpcodeRow.selects, beq_iff_eq] at h h'
  rw [← h, ← h', Nat.and_right_comm]

/-- Among the 14 rows, two of one format that agree on the bits both masks cover are the same row. -/
theorem opcodeRows_eq_of_agree : ∀ r ∈ opcodeRows, ∀ r' ∈ opcodeRows, r.format = r'.format →
    r.matchBits &&& r'.mask = r'.matchBits &&& r.mask → r = r' := by decide

/-- The row of every operation is one of the opcode map, of the operation's format, and selects its word. -/
theorem row_encoding (i : Instr) : Laws.Encoding.Statement i := by
  cases i with
  | sysReset h sl p u => exact Laws.Encoding.sysReset h sl p u
  | dwell sl p u => exact Laws.Encoding.dwell sl p u
  | slotStep p u => exact Laws.Encoding.slotStep p u
  | passStep u => exact Laws.Encoding.passStep u
  | tickIdle => exact Laws.Encoding.tickIdle
  | tickAdvance => exact Laws.Encoding.tickAdvance
  | actStart b c => exact Laws.Encoding.actStart b c
  | actPause c => exact Laws.Encoding.actPause c
  | actReset => exact Laws.Encoding.actReset
  | actNone => exact Laws.Encoding.actNone
  | bcNop => exact Laws.Encoding.bcNop
  | bcInc => exact Laws.Encoding.bcInc
  | bcClr => exact Laws.Encoding.bcClr
  | bcClrInc => exact Laws.Encoding.bcClrInc

/-- R52: no operation is ill formed. -/
theorem Instr.wellFormed_eq_true (i : Instr) : i.wellFormed = true := by cases i <;> rfl

/-- The word of an operation lies in its own row (`row_encoding`) and, the rows not overlapping, in no other; the
map lists each row once. -/
theorem rowsSelecting_encode (i : Instr) : rowsSelecting i.format (encode i) = [i.row] := by
  obtain ⟨-, hformat, hmem, hsel⟩ := row_encoding i i.wellFormed_eq_true
  have honly : ∀ r ∈ opcodeRows,
      (decide (r.format = i.format) && r.selects (encode i)) = decide (r = i.row) := by
    intro r hr
    rw [Bool.eq_iff_iff, Bool.and_eq_true, decide_eq_true_eq, decide_eq_true_eq]
    constructor
    · rintro ⟨hf, hs⟩
      exact opcodeRows_eq_of_agree r hr i.row hmem (hf.trans hformat.symm) (OpcodeRow.agree_of_selects hs hsel)
    · rintro rfl
      exact ⟨hformat, hsel⟩
  have hnodup : opcodeRows.Nodup := by decide
  rw [rowsSelecting, List.filter_congr honly, List.filter_eq, List.count_eq_one_of_mem hnodup hmem]
  rfl

/-- Settles O3: some operation of the format has the number as its word; it is the one decoding reads back, the
only one with that word, and its row alone selects the word. -/
theorem everyWordLiesInExactlyOneRow : Obligations.EveryWordLiesInExactlyOneRow := by
  intro f w hw
  obtain ⟨i, rfl, rfl⟩ := exists_encode_eq f w hw
  exact ⟨i, decodeWord_encode i, rfl, rfl, rowsSelecting_encode i, fun _ => encode_injective_of_format⟩

end Sys2Proof
end

section
/-! PROOFS. The bits of the SEQ and SAMPLE words an edge forms (30_encoding.md R45, R46). -/

namespace Sys2Proof.Machine

/-- The bit appended below a word is its bit 0. -/
theorem getLsbD_append_ofBool_zero {n : Nat} (x : BitVec n) (b : Bool) :
    (x ++ BitVec.ofBool b).getLsbD 0 = b := by
  rw [BitVec.getLsbD_append, if_pos Nat.one_pos, BitVec.getLsbD_ofBool, decide_eq_true rfl, Bool.true_and]

/-- Appending a bit below a word moves the word's own bits up by one place. -/
theorem getLsbD_append_ofBool_succ {n : Nat} (x : BitVec n) (b : Bool) (j : Nat) :
    (x ++ BitVec.ofBool b).getLsbD (j + 1) = x.getLsbD j := by
  rw [BitVec.getLsbD_append, if_neg (by omega), Nat.add_sub_cancel]

theorem seqH_iff (s : State) : seqH s = true ↔ s.hold = 0 := beq_iff_eq

theorem seqS_iff (s : State) : seqS s = true ↔ s.slot = 3 := beq_iff_eq

theorem seqP_iff (s : State) : seqP s = true ↔ s.pass = s.params.nPasses - 1 := beq_iff_eq

/-- Bits 4 to 0 of SEQ are `r h s p u` (R45). -/
theorem seqWord_bits (s : State) :
    (seqWord s).getLsbD 4 = s.pins.rst ∧ (seqWord s).getLsbD 3 = seqH s ∧ (seqWord s).getLsbD 2 = seqS s ∧
      (seqWord s).getLsbD 1 = seqP s ∧ (seqWord s).getLsbD 0 = s.run := by
  simp only [seqWord, getLsbD_append_ofBool_succ, getLsbD_append_ofBool_zero, BitVec.getLsbD_ofBool,
    decide_true, Bool.true_and, and_self]

/-- Bits 2 to 0 of SAMPLE are `a b c` (R46). -/
theorem sampleWord_bits (s : State) :
    (sampleWord s).getLsbD 2 = s.pins.startN ∧ (sampleWord s).getLsbD 1 = s.pins.pauseN ∧
      (sampleWord s).getLsbD 0 = s.pins.resetN := by
  simp only [sampleWord, getLsbD_append_ofBool_succ, getLsbD_append_ofBool_zero, BitVec.getLsbD_ofBool,
    decide_true, Bool.true_and, and_self]

/-- Settles O5: each bit is the one appended at its place, and the bits h, s, p are the register tests. -/
theorem controlWordsAreFormedFromStateAndInputs : Obligations.ControlWordsAreFormedFromStateAndInputs := by
  intro s
  obtain ⟨hr, hh, hs, hp, hu⟩ := seqWord_bits s
  rw [hh, hs, hp]
  exact ⟨hr, seqH_iff s, seqS_iff s, seqP_iff s, hu, sampleWord_bits s⟩

end Sys2Proof.Machine
end

section
/-! PROOFS. The BANK operations on the digits (40_bcd_counter.md R55, R59 to R62). -/

namespace Sys2Proof.Machine

/-! ### `ADVANCE`, by the first digit that does not carry -/

/-- A units digit reaches 10 exactly from 9, on every nibble: adding 1 is injective. -/
theorem nibble_add_one_eq_ten_iff (x : Nibble) : x + 1 = 10 ↔ x = 9 :=
  add_left_inj (b := x) (c := 9) 1

/-- A tens digit reaches 6 exactly from 5. -/
theorem nibble_add_one_eq_six_iff (x : Nibble) : x + 1 = 6 ↔ x = 5 :=
  add_left_inj (b := x) (c := 5) 1

theorem advance_of_su_ne_nine (d : DigitBank) (hsu : d.su ≠ 9) : advance d = { d with su := d.su + 1 } := by
  simp only [advance, nibble_add_one_eq_ten_iff, hsu, if_false]

theorem advance_of_st_ne_five (d : DigitBank) (hsu : d.su = 9) (hst : d.st ≠ 5) :
    advance d = { d with su := 0, st := d.st + 1 } := by
  simp only [advance, nibble_add_one_eq_ten_iff, nibble_add_one_eq_six_iff, hsu, hst, if_true, if_false]

theorem advance_of_mu_ne_nine (d : DigitBank) (hsu : d.su = 9) (hst : d.st = 5) (hmu : d.mu ≠ 9) :
    advance d = { d with su := 0, st := 0, mu := d.mu + 1 } := by
  simp only [advance, nibble_add_one_eq_ten_iff, nibble_add_one_eq_six_iff, hsu, hst, hmu, if_true, if_false]

theorem advance_of_mt_ne_five (d : DigitBank) (hsu : d.su = 9) (hst : d.st = 5) (hmu : d.mu = 9)
    (hmt : d.mt ≠ 5) : advance d = { d with su := 0, st := 0, mu := 0, mt := d.mt + 1 } := by
  simp only [advance, nibble_add_one_eq_ten_iff, nibble_add_one_eq_six_iff, hsu, hst, hmu, hmt, if_true, if_false]

/-- The wrap from 59:59. -/
theorem advance_of_all_carry (d : DigitBank) (hsu : d.su = 9) (hst : d.st = 5) (hmu : d.mu = 9)
    (hmt : d.mt = 5) : advance d = DigitBank.zero := by
  simp only [advance, nibble_add_one_eq_ten_iff, nibble_add_one_eq_six_iff, hsu, hst, hmu, hmt, if_true, DigitBank.zero]

/-! ### The operations -/

theorem exec_bcInc (s : State) : exec .bcInc s = .next { s with bank := advance s.bank } := rfl

/-- Settles O7: `BC_INC` writes the advance, which is compared case by case with the first digit that does not
carry. The argument needs no legality: a digit above its range never equals 9 (or 5), so it grows by one. -/
theorem incrementCarriesDigitByDigit : Obligations.IncrementCarriesDigitByDigit := by
  intro s _
  rw [exec_bcInc]
  split_ifs with hsu hst hmu hmt
  · rw [advance_of_su_ne_nine _ hsu]
  · rw [advance_of_st_ne_five _ (not_not.1 hsu) hst]
  · rw [advance_of_mu_ne_nine _ (not_not.1 hsu) (not_not.1 hst) hmu]
  · rw [advance_of_mt_ne_five _ (not_not.1 hsu) (not_not.1 hst) (not_not.1 hmu) hmt]
  · rw [advance_of_all_carry _ (not_not.1 hsu) (not_not.1 hst) (not_not.1 hmu) (not_not.1 hmt), DigitBank.zero]

/-- The advance of `BC_CLR_INC` is discarded: the clear overwrites all four digits. -/
theorem bcClrInc_eq_bcClr (s : State) : bcClrInc s = bcClr s := rfl

theorem exec_bcClr (s : State) : exec .bcClr s = .next { s with bank := DigitBank.zero } := rfl

theorem exec_bcClrInc_eq_exec_bcClr (s : State) : exec .bcClrInc s = exec .bcClr s :=
  congrArg Host.Outcome.next (bcClrInc_eq_bcClr s)

/-- Settles O6: `BC_NOP` answers its own state, `BC_CLR` writes the zero digits, and `BC_CLR_INC` answers as it. -/
theorem nopAndClearsOfTheBank : Obligations.NopAndClearsOfTheBank := fun s =>
  ⟨rfl, exec_bcClr s, (exec_bcClrInc_eq_exec_bcClr s).trans (exec_bcClr s)⟩

end Sys2Proof.Machine
end

section
/-! PROOFS. The actions on `RUN` and the clear bit, and what an edge takes from the buttons (41_run_state.md R63 to
R68): with the same `rst`, only the action of the sample, and that on slot-entry edges only. -/

namespace Sys2Proof.Machine

open Sys2Proof.Safety

/-! ### The priority chain -/

/-- The SAMPLE opcode map is the priority chain of R64 on the levels a, b, c. -/
theorem decodeSampleBits_eq : ∀ a b c : Bool, decodeSampleBits a b c =
    if a = false then .actStart b c
    else if b = false then .actPause c
    else if c = false then .actReset
    else .actNone
  | false, _, _ => rfl
  | true, false, _ => rfl
  | true, true, false => rfl
  | true, true, true => rfl

/-- A pressed start button masks the other two, whatever their levels. -/
theorem action_of_start {p : Pins} (hstart : p.startN = false) : action p = .start := if_pos hstart

/-- A pressed pause button masks the reset button. -/
theorem action_of_pause {p : Pins} (hpause : p.pauseN = false) :
    action p = if p.startN = false then .start else .pause := by
  rw [action, if_pos hpause]

/-- Levels that differ in masked buttons only give the same action. -/
theorem action_eq_of_masked {p q : Pins}
    (h : p.startN = false ∧ q.startN = false ∨ p.startN = q.startN ∧ p.pauseN = false ∧ q.pauseN = false) :
    action p = action q := by
  obtain ⟨hp, hq⟩ | ⟨hstart, hp, hq⟩ := h
  · rw [action_of_start hp, action_of_start hq]
  · rw [action_of_pause hp, action_of_pause hq, hstart]

/-! ### What an edge takes from the buttons -/

/-- `entryResult` is the slot entry at the next position: its sample enters through the action alone. -/
theorem entryResult_eq_slotEntry (s : State) :
    entryResult s = slotEntry (entryPosition s).1 (entryPosition s).2.1 (entryPosition s).2.2 s :=
  (slotEntry_eq _ _ _ s).symm

/-- A slot entry takes nothing but the action from the levels of its edge, which the end of the edge uses up. -/
theorem closeEdge_entryResult_of_action (s : State) {p q : Pins} (rest : List Pins) (h : action p = action q) :
    closeEdge (entryResult { s with script := p :: rest }) =
      closeEdge (entryResult { s with script := q :: rest }) := by
  have hp : action (State.pins { s with script := p :: rest }) = action p := rfl
  have hq : action (State.pins { s with script := q :: rest }) = action q := rfl
  simp only [entryResult_eq_slotEntry, slotEntry, hp, hq, h, runAction_eq, runBank_eq]
  rfl

/-- An edge answers the same state for other levels with the same `rst` that, where the edge enters a slot, give
the same action. -/
theorem step_next_of_action (s t : State) {p q : Pins} {rest : List Pins} (hrst : p.rst = q.rst)
    (haction : p.rst = false → s.hold = 0 → action p = action q)
    (h : step { s with script := p :: rest } = .next t) : step { s with script := q :: rest } = .next t := by
  obtain ⟨hr, rfl⟩ | ⟨hr, hlegal, hhold, rfl⟩ | ⟨hr, hlegal, hhold, rfl⟩ := step_cases _ _ h
  · exact step_of_rst _ (hrst.symm.trans hr)
  · exact step_of_hold _ (hrst.symm.trans hr) hlegal hhold
  · rw [closeEdge_entryResult_of_action s rest (haction hr hhold)]
    exact step_of_entry _ (hrst.symm.trans hr) hlegal hhold

/-! ### The obligations -/

/-- Settles O12: the SAMPLE word decodes by the priority chain, and masked levels leave the action as it is. -/
theorem priorityStartOverPauseOverReset : Obligations.PriorityStartOverPauseOverReset := by
  refine ⟨fun s => ?_, fun s t p q rest hrst hmasked => ?_⟩
  · exact (decodeSample_ofBools _ _ _).trans (decodeSampleBits_eq _ _ _)
  · exact step_next_of_action s t hrst fun _ _ => action_eq_of_masked hmasked

/-- Settles O13: a slot entry answers with the sampled `RUN`; under `rst` or where `HOLD ≠ 0` the edge enters no
slot, so no action is taken from the levels. -/
theorem buttonsAreSampledOnSlotEntryOnly : Obligations.ButtonsAreSampledOnSlotEntryOnly := by
  refine ⟨fun s hlegal ⟨hrst, hhold⟩ => ?_, fun s t p q rest hrst hignored => ?_⟩
  · exact ⟨_, step_of_entry s hrst hlegal hhold, entryResult_run s⟩
  · refine step_next_of_action s t hrst fun hlow hhold => ?_
    obtain hhigh | hdwell := hignored
    · rw [hlow] at hhigh; cases hhigh
    · exact absurd hhold hdwell

/-- Settles O11: each operation is its action, which writes `RUN` and `k` and nothing else (`runAction_eq`). -/
theorem actionsWriteRunAndTheClearBit : Obligations.ActionsWriteRunAndTheClearBit := fun s _ _ =>
  ⟨congrArg Host.Outcome.next (runAction_eq .start s), congrArg Host.Outcome.next (runAction_eq .pause s),
    congrArg Host.Outcome.next (runAction_eq .reset s), congrArg Host.Outcome.next (runAction_eq .none s)⟩

end Sys2Proof.Machine
end

section
/-! PROOFS. The SEQ operations one by one: what each answers and which edge selects it (42_sequencer.md R71 to R78). -/

namespace Sys2Proof.Machine

open Sys2Proof.Safety

/-! ### What each operation answers -/

theorem exec_dwell (s : State) (sl p u : Bool) :
    exec (.dwell sl p u) s = .next { s with hold := s.hold - 1 } := rfl

theorem exec_slotStep (s : State) (p u : Bool) :
    exec (.slotStep p u) s = .next (entered (s.slot + 1) s.pass s.bank s) :=
  congrArg Host.Outcome.next (slotEntry_eq _ _ false s)

theorem exec_passStep (s : State) (u : Bool) :
    exec (.passStep u) s = .next (entered 0 (s.pass + 1) s.bank s) :=
  congrArg Host.Outcome.next (slotEntry_eq _ _ false s)

theorem exec_tickIdle (s : State) : exec .tickIdle s = .next (entered 0 0 s.bank s) :=
  congrArg Host.Outcome.next (slotEntry_eq _ _ false s)

theorem exec_tickAdvance (s : State) : exec .tickAdvance s = .next (entered 0 0 (advance s.bank) s) :=
  congrArg Host.Outcome.next (slotEntry_eq _ _ true s)

/-! ### Where an operation is not selected -/

/-- The rows of R48 with h = 1 are not `DWELL`'s. -/
theorem decodeSeqBits_ne_dwell_of_h (sl' p' u' : Bool) :
    ∀ r sl p u : Bool, decodeSeqBits r true sl p u ≠ .dwell sl' p' u'
  | true, _, _, _ => nofun
  | false, false, _, _ => nofun
  | false, true, false, _ => nofun
  | false, true, true, false => nofun
  | false, true, true, true => nofun

/-- The rows of R48 with p = 1 are not `PASS_STEP`'s. -/
theorem decodeSeqBits_ne_passStep_of_p (u' : Bool) :
    ∀ r h sl u : Bool, decodeSeqBits r h sl true u ≠ .passStep u'
  | true, _, _, _ => nofun
  | false, false, _, _ => nofun
  | false, true, false, _ => nofun
  | false, true, true, false => nofun
  | false, true, true, true => nofun

theorem selected_ne_dwell_of_hold (s : State) (hhold : s.hold = 0) (sl p u : Bool) : selected s ≠ .dwell sl p u := by
  rw [selected_eq, (seqH_iff s).2 hhold]
  exact decodeSeqBits_ne_dwell_of_h sl p u _ _ _ _

theorem selected_ne_passStep_of_lastPass (s : State) (hpass : s.pass = s.params.nPasses - 1) (u : Bool) :
    selected s ≠ .passStep u := by
  rw [selected_eq, (seqP_iff s).2 hpass]
  exact decodeSeqBits_ne_passStep_of_p u _ _ _ _

/-- A slot of one edge leaves no dwell edge. -/
theorem hold_eq_zero_of_legal (s : State) (hlegal : LegalState s) (hdwell : s.params.dwellCycles = 1) :
    s.hold = 0 := by
  obtain ⟨-, -, hhold, -⟩ := hlegal
  omega

/-- In a super-cycle of one pass, every pass is the last. -/
theorem pass_eq_last_of_legal (s : State) (hlegal : LegalState s) (hpasses : s.params.nPasses = 1) :
    s.pass = s.params.nPasses - 1 := by
  obtain ⟨-, hpass, -, -⟩ := hlegal
  omega

/-! ### The operations -/

/-- Settles O15: with `DWELL_CYCLES = 1` a legal `HOLD` is 0, and then bit h keeps the word out of `DWELL`'s row. -/
theorem dwellCountsHoldDown : Obligations.DwellCountsHoldDown :=
  ⟨fun s sl p u _ => exec_dwell s sl p u,
    fun s hrst hhold => ⟨_, _, _, selected_dwell s hrst hhold⟩,
    fun s sl p u hlegal hdwell => selected_ne_dwell_of_hold s (hold_eq_zero_of_legal s hlegal hdwell) sl p u⟩

/-- Settles O16: the slot entry at `SLOT + 1` with i = 0. -/
theorem slotStepEntersTheNextPosition : Obligations.SlotStepEntersTheNextPosition :=
  ⟨fun s p u _ => exec_slotStep s p u,
    fun s ⟨hrst, hhold⟩ hslot => ⟨_, _, selected_slotStep s hrst hhold hslot⟩⟩

/-- Settles O17: the slot entry at position 0 of `PASS + 1` with i = 0; with `N_PASSES = 1` bit p keeps the word out
of `PASS_STEP`'s row. -/
theorem passStepBeginsTheNextPass : Obligations.PassStepBeginsTheNextPass :=
  ⟨fun s u _ => exec_passStep s u,
    fun s ⟨hrst, hhold⟩ hslot hpass => ⟨_, selected_passStep s hrst hhold hslot hpass⟩,
    fun s u hlegal hpasses => selected_ne_passStep_of_lastPass s (pass_eq_last_of_legal s hlegal hpasses) u⟩

/-- Settles O18: the slot entry at position 0 of pass 0 with i = 0, which u = 0 selects. -/
theorem tickIdleCreditsNothing : Obligations.TickIdleCreditsNothing := by
  refine ⟨exec_tickIdle, fun s ⟨⟨hrst, hhold⟩, hslot, hpass⟩ hrun => ?_⟩
  rw [selected_tick s hrst hhold hslot hpass, hrun]
  rfl

/-- Settles O19: the slot entry at position 0 of pass 0 with i = 1, which u = 1 selects. Nothing turns on the legality
of the digits here, since both sides name the same `advance`. -/
theorem tickAdvanceCreditsOneTick : Obligations.TickAdvanceCreditsOneTick := by
  refine ⟨fun s _ => exec_tickAdvance s, fun s ⟨⟨hrst, hhold⟩, hslot, hpass⟩ hrun => ?_⟩
  rw [selected_tick s hrst hhold hslot hpass, if_pos hrun]

/-! ### The composition of a slot entry -/

/-- The decoded sample is `ACT_RESET` exactly where `ACTION` is the reset, so exactly there the action drives k. -/
theorem runAction_k_iff (s : State) :
    (runAction (action s.pins) s).k = true ↔ decodeSample (sampleWord s) = .actReset := by
  rw [runAction_eq, decide_eq_true_iff, sampleWord, decodeSample_ofBools, decodeSampleBits_eq, action]
  split_ifs
  · exact ⟨nofun, nofun⟩
  · exact ⟨nofun, nofun⟩
  · exact ⟨fun _ => rfl, fun _ => rfl⟩
  · exact ⟨nofun, nofun⟩

/-- Each of the four operations is a slot entry at some position, with i = 1 for `TICK_ADVANCE` only. -/
theorem exec_of_entersBy (s : State) (i : Instr) (h : entersBy i = true) :
    ∃ slot pass, exec i s = .next (slotEntry slot pass (decide (i = .tickAdvance)) s) := by
  cases i with
  | slotStep | passStep | tickIdle | tickAdvance => exact ⟨_, _, rfl⟩
  | sysReset | dwell | actStart | actPause | actReset | actNone | bcNop | bcInc | bcClr | bcClrInc => cases h

/-- Settles O20: `slotEntry` is the action, the BANK operation of `{k, i}` and the loads, and the decoded words name
that action (`exec_sample`) and that operation (`exec_bank`); `BC_NOP` leaves the digits as `DWELL` does. -/
theorem slotEntryRunsSampleThenBankThenDisplay : Obligations.SlotEntryRunsSampleThenBankThenDisplay := by
  refine ⟨fun s i hi => ?_, fun s sl p u => ⟨_, _, exec_bank false false s, exec_dwell s sl p u, rfl⟩⟩
  obtain ⟨slot, pass, hexec⟩ := exec_of_entersBy s i hi
  exact ⟨_, _, _, exec_sample s, runAction_k_iff s, exec_bank _ _ _, hexec, rfl, rfl, rfl, rfl, rfl⟩

end Sys2Proof.Machine
end

section
/-! PROOFS. The sequence by itself: `SLOT`, `PASS` and `HOLD` after an edge depend on nothing else (42_sequencer.md R81). -/

namespace Sys2Proof.Machine

open Sys2Proof.Safety

/-- `SLOT`, `PASS` and `HOLD` after an edge with `rst = 0`, from themselves and the parameters alone (R74 to R78). -/
def sequenceAfter (p : Params) (slot : BitVec 2) (pass hold : Nat) : BitVec 2 × Nat × Nat :=
  if hold ≠ 0 then (slot, pass, hold - 1)
  else if slot ≠ 3 then (slot + 1, pass, p.dwellCycles - 1)
  else if pass ≠ p.nPasses - 1 then (0, pass + 1, p.dwellCycles - 1)
  else (0, 0, p.dwellCycles - 1)

/-- The position a slot entry goes to does not depend on `RUN`, which only decides the tick. -/
theorem entryResult_sequence (s : State) (hhold : s.hold = 0) :
    ((entryResult s).slot, (entryResult s).pass, (entryResult s).hold) =
      sequenceAfter s.params s.slot s.pass s.hold := by
  show ((entryPosition s).1, (entryPosition s).2.1, s.params.dwellCycles - 1) = _
  rw [entryPosition, sequenceAfter, if_neg (not_not.2 hhold)]
  split_ifs
  · rfl
  · rfl
  · rfl

/-- An edge with `rst = 0` moves the sequence by `sequenceAfter`. -/
theorem step_sequence (s t : State) (hrst : s.pins.rst = false) (h : step s = .next t) :
    (t.slot, t.pass, t.hold) = sequenceAfter s.params s.slot s.pass s.hold := by
  obtain ⟨hhigh, -⟩ | ⟨-, -, hhold, rfl⟩ | ⟨-, -, hhold, rfl⟩ := step_cases s t h
  · rw [hrst] at hhigh; cases hhigh
  · exact (if_pos hhold).symm
  · exact entryResult_sequence s hhold

/-- Settles O33: both edges move the sequence by the same function of the same parameters, `SLOT`, `PASS` and
`HOLD`. -/
theorem sequenceIgnoresButtonsAndRun : Obligations.SequenceIgnoresButtonsAndRun := by
  intro s s' t t' hparams hslot hpass hhold hrst hrst' ht ht'
  have heq : (t.slot, t.pass, t.hold) = (t'.slot, t'.pass, t'.hold) := by
    rw [step_sequence s t hrst ht, step_sequence s' t' hrst' ht', hparams, hslot, hpass, hhold]
  simpa only [Prod.mk.injEq] using heq

end Sys2Proof.Machine
end

section
/-! PROOFS. The one fault: which edges raise it and what it records (60_exceptions.md R86). -/

namespace Sys2Proof.Machine

open Sys2Proof.Safety

/-- A step that faults had `rst = 0` and an illegal state, and its fault is the one `step_of_illegal` names: under
`rst` and in a legal state the step answers a next state. -/
theorem step_eq_fault_iff (s : State) (f : Fault) :
    step s = .fault f ↔ s.pins.rst = false ∧ ¬ LegalState s ∧ f = .illegalState s s.pins := by
  constructor
  · intro hfault
    cases hrst : s.pins.rst with
    | true => rw [step_of_rst s hrst] at hfault; cases hfault
    | false =>
      by_cases hlegal : LegalState s
      · obtain ⟨t, hexec⟩ := exec_next (selected s) s
        rw [step_runs s hrst hlegal, hexec] at hfault; cases hfault
      · rw [step_of_illegal s hrst hlegal] at hfault; cases hfault
        exact ⟨rfl, hlegal, rfl⟩
  · rintro ⟨hrst, hlegal, rfl⟩
    exact step_of_illegal s hrst hlegal

theorem step_ne_refused (s : State) (r : Refusal) : step s ≠ .refused r := by
  obtain ⟨t, hnext⟩ | ⟨f, hfault⟩ := step_next_or_fault s
  · simp [hnext]
  · simp [hfault]

/-- Settles O27: `step_eq_fault_iff` gives the edges that fault and the fault itself, the only one there is. -/
theorem faultExactlyOnIllegalStates : Obligations.FaultExactlyOnIllegalStates := by
  refine fun s => ⟨⟨?_, ?_⟩, ?_, step_ne_refused s⟩
  · rintro ⟨f, hfault⟩
    obtain ⟨hrst, hlegal, -⟩ := (step_eq_fault_iff s f).1 hfault
    exact ⟨hrst, hlegal⟩
  · rintro ⟨hrst, hlegal⟩
    exact ⟨_, step_of_illegal s hrst hlegal⟩
  · intro f hfault
    obtain ⟨-, -, rfl⟩ := (step_eq_fault_iff s f).1 hfault
    exact ⟨rfl, rfl⟩

end Sys2Proof.Machine
end

section
/-! PROOFS. Printed words, encoded words and words too wide for their format (30_encoding.md sections 3 and 4). -/

namespace Sys2Proof

/-- Settles O2: the width is in the operation's encoding law (`row_encoding`), and decoding undoes encoding. -/
theorem decodeOfEncodeGivesTheOperation : Obligations.DecodeOfEncodeGivesTheOperation := by
  intro i hwell
  obtain ⟨hwidth, -⟩ := row_encoding i hwell
  exact ⟨hwidth, decodeWord_encode i⟩

/-- Settles O1: each printed word is the encoding of its operation, which `decodeWord_encode` reads back. -/
theorem printedWordsDecodeToTheirOperations : Obligations.PrintedWordsDecodeToTheirOperations :=
  ⟨decodeWord_encode (.sysReset false true false false), decodeWord_encode (.dwell true true false),
    decodeWord_encode (.slotStep false true), decodeWord_encode (.passStep true), decodeWord_encode .tickIdle,
    decodeWord_encode .tickAdvance, decodeWord_encode (.actStart false true), decodeWord_encode (.actPause true),
    decodeWord_encode .actReset, decodeWord_encode .bcInc, decodeWord_encode .bcClr⟩

/-- Settles O4: a number of at least `2 ^ width` fails the width test, the first thing decoding does. -/
theorem numbersWiderThanTheFormatAreRejected : Obligations.NumbersWiderThanTheFormatAreRejected :=
  fun _ _ hwide => if_neg (Nat.not_lt.2 hwide)

end Sys2Proof
end

section
/-! PROOFS. The arithmetic of the Digit Bank: digits, time value and `ADVANCE` (10_state.md R15, R17;
40_bcd_counter.md R55 to R57). -/

namespace Sys2Proof.Machine

/-! ### Legal digits and the time value -/

theorem DigitBank.legal_iff (d : DigitBank) :
    d.legal = true ↔ d.su ≤ 9 ∧ d.st ≤ 5 ∧ d.mu ≤ 9 ∧ d.mt ≤ 5 := by
  simp only [DigitBank.legal, Bool.and_eq_true, decide_eq_true_eq, and_assoc]

/-- The legal ranges of R15, on the digits' numbers. -/
theorem DigitBank.legal_iff_toNat (d : DigitBank) :
    d.legal = true ↔ d.su.toNat ≤ 9 ∧ d.st.toNat ≤ 5 ∧ d.mu.toNat ≤ 9 ∧ d.mt.toNat ≤ 5 :=
  d.legal_iff

/-- The numbers of the digits of `n` seconds. -/
theorem DigitBank.ofTime_toNat (n : Nat) :
    (DigitBank.ofTime n).su.toNat = n % 3600 % 60 % 10 ∧ (DigitBank.ofTime n).st.toNat = n % 3600 % 60 / 10 ∧
    (DigitBank.ofTime n).mu.toNat = n % 3600 / 60 % 10 ∧ (DigitBank.ofTime n).mt.toNat = n % 3600 / 60 / 10 := by
  simp only [DigitBank.ofTime, BitVec.toNat_ofNat]
  omega

theorem DigitBank.ofTime_legal (n : Nat) : (DigitBank.ofTime n).legal = true := by
  rw [DigitBank.legal_iff_toNat]
  obtain ⟨hsu, hst, hmu, hmt⟩ := DigitBank.ofTime_toNat n
  omega

theorem DigitBank.time_ofTime (n : Nat) : (DigitBank.ofTime n).time = n % 3600 := by
  obtain ⟨hsu, hst, hmu, hmt⟩ := DigitBank.ofTime_toNat n
  rw [DigitBank.time]
  omega

theorem DigitBank.time_lt_of_legal {d : DigitBank} (h : d.legal = true) : d.time < 3600 := by
  obtain ⟨hsu, hst, hmu, hmt⟩ := d.legal_iff_toNat.1 h
  rw [DigitBank.time]
  omega

/-- The time value determines the legal digits: 10 and 6 are the bases of the positions. -/
theorem DigitBank.eq_of_time_eq {d e : DigitBank} (hd : d.legal = true) (he : e.legal = true)
    (h : d.time = e.time) : d = e := by
  obtain ⟨hsu, hst, hmu, hmt⟩ := d.legal_iff_toNat.1 hd
  obtain ⟨hsu', hst', hmu', hmt'⟩ := e.legal_iff_toNat.1 he
  simp only [DigitBank.time] at h
  have hdigits : d.su.toNat = e.su.toNat ∧ d.st.toNat = e.st.toNat ∧ d.mu.toNat = e.mu.toNat ∧
      d.mt.toNat = e.mt.toNat := by omega
  simpa only [BitVec.toNat_inj, ← DigitBank.mk.injEq] using hdigits

theorem DigitBank.ofTime_time {d : DigitBank} (h : d.legal = true) : DigitBank.ofTime d.time = d :=
  DigitBank.eq_of_time_eq (DigitBank.ofTime_legal _) h
    ((DigitBank.time_ofTime _).trans (Nat.mod_eq_of_lt (DigitBank.time_lt_of_legal h)))

/-- Settles O9: `ofTime` and `time` undo each other on the legal tuples and the numbers below 3600. -/
theorem timeValueNumbersTheLegalTuples : Obligations.TimeValueNumbersTheLegalTuples :=
  ⟨fun _ h => ⟨DigitBank.time_lt_of_legal h, DigitBank.ofTime_time h⟩,
    fun n hn => ⟨DigitBank.ofTime_legal n, (DigitBank.time_ofTime n).trans (Nat.mod_eq_of_lt hn)⟩⟩

/-! ### One advance -/

/-- The five forms of `ADVANCE`, by the first digit that does not carry (R55). -/
theorem advance_cases (d : DigitBank) :
    (d.su ≠ 9 ∧ advance d = { d with su := d.su + 1 }) ∨
    (d.su = 9 ∧ d.st ≠ 5 ∧ advance d = { d with su := 0, st := d.st + 1 }) ∨
    (d.su = 9 ∧ d.st = 5 ∧ d.mu ≠ 9 ∧ advance d = { d with su := 0, st := 0, mu := d.mu + 1 }) ∨
    (d.su = 9 ∧ d.st = 5 ∧ d.mu = 9 ∧ d.mt ≠ 5 ∧
      advance d = { d with su := 0, st := 0, mu := 0, mt := d.mt + 1 }) ∨
    (d.su = 9 ∧ d.st = 5 ∧ d.mu = 9 ∧ d.mt = 5 ∧ advance d = DigitBank.zero) := by
  by_cases hsu : d.su = 9
  · by_cases hst : d.st = 5
    · by_cases hmu : d.mu = 9
      · by_cases hmt : d.mt = 5
        · exact .inr (.inr (.inr (.inr ⟨hsu, hst, hmu, hmt, advance_of_all_carry d hsu hst hmu hmt⟩)))
        · exact .inr (.inr (.inr (.inl ⟨hsu, hst, hmu, hmt, advance_of_mt_ne_five d hsu hst hmu hmt⟩)))
      · exact .inr (.inr (.inl ⟨hsu, hst, hmu, advance_of_mu_ne_nine d hsu hst hmu⟩))
    · exact .inr (.inl ⟨hsu, hst, advance_of_st_ne_five d hsu hst⟩)
  · exact .inl ⟨hsu, advance_of_su_ne_nine d hsu⟩

/-- A digit below its limit counts up by one: 4 bits do not wrap there. -/
theorem toNat_add_one_of_lt {x m : Nibble} (hle : x.toNat ≤ m.toNat) (hne : x ≠ m) :
    (x + 1).toNat = x.toNat + 1 ∧ x.toNat < m.toNat := by
  have hm := m.isLt
  have hlt : x.toNat ≠ m.toNat := fun h => hne (BitVec.eq_of_toNat_eq h)
  rw [BitVec.toNat_add, show (1 : Nibble).toNat = 1 from rfl]
  omega

/-- `ADVANCE` stays legal and adds one second modulo 3600. -/
theorem advance_legal_time {d : DigitBank} (h : d.legal = true) :
    (advance d).legal = true ∧ (advance d).time = (d.time + 1) % 3600 := by
  obtain ⟨hsu, hst, hmu, hmt⟩ := d.legal_iff_toNat.1 h
  rw [DigitBank.legal_iff_toNat, DigitBank.time, DigitBank.time]
  obtain ⟨hne, heq⟩ | ⟨hsu9, hne, heq⟩ | ⟨hsu9, hst5, hne, heq⟩ | ⟨hsu9, hst5, hmu9, hne, heq⟩ |
    ⟨hsu9, hst5, hmu9, hmt5, heq⟩ := advance_cases d
  · have hinc := toNat_add_one_of_lt (m := 9) hsu hne
    simp only [heq, BitVec.ofNat_eq_ofNat, BitVec.toNat_ofNat] at hinc ⊢
    omega
  · have hinc := toNat_add_one_of_lt (m := 5) hst hne
    simp only [heq, hsu9, BitVec.ofNat_eq_ofNat, BitVec.toNat_ofNat] at hinc ⊢
    omega
  · have hinc := toNat_add_one_of_lt (m := 9) hmu hne
    simp only [heq, hsu9, hst5, BitVec.ofNat_eq_ofNat, BitVec.toNat_ofNat] at hinc ⊢
    omega
  · have hinc := toNat_add_one_of_lt (m := 5) hmt hne
    simp only [heq, hsu9, hst5, hmu9, BitVec.ofNat_eq_ofNat, BitVec.toNat_ofNat] at hinc ⊢
    omega
  · simp [heq, DigitBank.zero, hsu9, hst5, hmu9, hmt5]

theorem advance_legal {d : DigitBank} (h : d.legal = true) : (advance d).legal = true := (advance_legal_time h).1

/-- Settles O10: where a digit does not carry, the carries beyond it are low too. The argument needs no legality. -/
theorem carryChainEqualsAdvance : Obligations.CarryChainEqualsAdvance := by
  intro d _
  obtain ⟨hne, heq⟩ | ⟨hsu9, hne, heq⟩ | ⟨hsu9, hst5, hne, heq⟩ | ⟨hsu9, hst5, hmu9, hne, heq⟩ |
    ⟨hsu9, hst5, hmu9, hmt5, heq⟩ := advance_cases d
  · have hlow : carry0 d = false := beq_eq_false_iff_ne.2 hne
    simp [heq, advanceChain, carry1, carry2, carry3, hlow]
  · have hhigh : carry0 d = true := beq_iff_eq.2 hsu9
    have hlow : carry1 d = false := by rw [carry1, beq_eq_false_iff_ne.2 hne, Bool.and_false]
    simp [heq, advanceChain, carry2, carry3, hhigh, hlow]
  · have hhigh : carry1 d = true := by rw [carry1, carry0, hsu9, hst5]; rfl
    have hlow : carry2 d = false := by rw [carry2, beq_eq_false_iff_ne.2 hne, Bool.and_false]
    simp [heq, advanceChain, carry0, carry3, hsu9, hhigh, hlow]
  · have hhigh : carry2 d = true := by rw [carry2, carry1, carry0, hsu9, hst5, hmu9]; rfl
    have hlow : carry3 d = false := by rw [carry3, beq_eq_false_iff_ne.2 hne, Bool.and_false]
    simp [heq, advanceChain, carry0, carry1, hsu9, hst5, hhigh, hlow]
  · simp [heq, advanceChain, carry0, carry1, carry2, carry3, hsu9, hst5, hmu9, hmt5, DigitBank.zero]

/-! ### Many advances -/

theorem iterate_advance_legal_time {d : DigitBank} (h : d.legal = true) (n : Nat) :
    (advance^[n] d).legal = true ∧ (advance^[n] d).time = (d.time + n) % 3600 := by
  induction n with
  | zero => exact ⟨h, (Nat.mod_eq_of_lt (DigitBank.time_lt_of_legal h)).symm⟩
  | succ n ih =>
    obtain ⟨hlegal, htime⟩ := ih
    obtain ⟨hlegal', htime'⟩ := advance_legal_time hlegal
    rw [Function.iterate_succ_apply']
    refine ⟨hlegal', ?_⟩
    rw [htime', htime, Nat.mod_add_mod, Nat.add_assoc]

theorem advance_ofTime (n : Nat) : advance (DigitBank.ofTime n) = DigitBank.ofTime (n + 1) := by
  obtain ⟨hlegal, htime⟩ := advance_legal_time (DigitBank.ofTime_legal n)
  refine DigitBank.eq_of_time_eq hlegal (DigitBank.ofTime_legal _) ?_
  rw [htime, DigitBank.time_ofTime, DigitBank.time_ofTime, Nat.mod_add_mod]

theorem iterate_advance_zero (n : Nat) : advance^[n] DigitBank.zero = DigitBank.ofTime n := by
  induction n with
  | zero => rfl
  | succ n ih => rw [Function.iterate_succ_apply', ih, advance_ofTime]

theorem advance_injective {d e : DigitBank} (hd : d.legal = true) (he : e.legal = true)
    (h : advance d = advance e) : d = e := by
  have htime : (d.time + 1) % 3600 = (e.time + 1) % 3600 := by
    rw [← (advance_legal_time hd).2, ← (advance_legal_time he).2, h]
  have hdlt := DigitBank.time_lt_of_legal hd
  have helt := DigitBank.time_lt_of_legal he
  exact DigitBank.eq_of_time_eq hd he (by omega)

theorem iterate_advance_eq_self_iff {d : DigitBank} (h : d.legal = true) (n : Nat) :
    advance^[n] d = d ↔ n % 3600 = 0 := by
  obtain ⟨hlegal, htime⟩ := iterate_advance_legal_time h n
  have hlt := DigitBank.time_lt_of_legal h
  constructor
  · intro heq
    rw [heq] at htime
    omega
  · intro hn
    exact DigitBank.eq_of_time_eq hlegal h (by omega)

/-- The tuple before a legal one is the 3599th after it. -/
theorem advance_surjective {e : DigitBank} (h : e.legal = true) : ∃ d, d.legal = true ∧ advance d = e :=
  ⟨advance^[3599] e, (iterate_advance_legal_time h 3599).1,
    (Function.iterate_succ_apply' advance 3599 e).symm.trans ((iterate_advance_eq_self_iff h 3600).2 rfl)⟩

/-- Settles O8: each law is arithmetic on the time value, which determines a legal tuple. -/
theorem advanceObeysTheArithmeticLaws : Obligations.AdvanceObeysTheArithmeticLaws := by
  refine ⟨fun _ => advance_legal_time, iterate_advance_zero, fun _ _ => advance_injective, fun _ => advance_surjective,
    fun d h => (iterate_advance_eq_self_iff h 3600).2 rfl, fun d n h hpos hlt heq => ?_⟩
  have hmod := (iterate_advance_eq_self_iff h n).1 heq
  omega

end Sys2Proof.Machine
end

section
/-! PROOFS. The legal-state invariant and the display invariant, edge by edge (10_state.md R32; 42_sequencer.md R83). -/

namespace Sys2Proof.Machine

open Sys2Proof.Safety

/-! ### States at reset -/

theorem legalState_iff (s : State) : LegalState s ↔
    s.bank.legal = true ∧ s.pass ≤ s.params.nPasses - 1 ∧ s.hold ≤ s.params.dwellCycles - 1 ∧
      (s.digEn = 0 ∨ s.digEn = onehot4 s.slot) ∧ s.bcdOut = s.bank.digit s.slot := by
  rw [LegalState, DigitBank.legal_iff]

theorem legalState_of_atReset {s : State} (h : AtReset s) : LegalState s := by
  obtain ⟨hbank, -, hslot, hpass, hhold, hdigEn, hbcdOut⟩ := h
  rw [legalState_iff, hbank, hslot, hpass, hhold, hdigEn, hbcdOut]
  exact ⟨by decide, le_rfl, Nat.zero_le _, .inl rfl, rfl⟩

theorem atReset_reset : AtReset State.reset := ⟨rfl, rfl, rfl, rfl, rfl, rfl, rfl⟩

/-- Settles O29: the values of R30 are legal for any parameters. -/
theorem resetStateIsLegal : Obligations.ResetStateIsLegal := legalState_of_atReset atReset_reset

/-- Settles O23: `step_of_rst`, with the reset registers and the end of the edge written out. -/
theorem resetLeavesTheListedValues : Obligations.ResetLeavesTheListedValues := ⟨atReset_reset, step_of_rst⟩

/-! ### What a slot entry establishes -/

theorem tickedBank_legal {s : State} (h : s.bank.legal = true) : (tickedBank s).legal = true := by
  unfold tickedBank
  split
  · exact advance_legal h
  · exact h

theorem clearedBy_legal (s : State) {d : DigitBank} (h : d.legal = true) : (clearedBy s d).legal = true := by
  unfold clearedBy
  split
  · rfl
  · exact h

/-- A pass is counted up only before the last one. -/
theorem entryPosition_pass_le {s : State} (h : s.pass ≤ s.params.nPasses - 1) :
    (entryPosition s).2.1 ≤ s.params.nPasses - 1 := by
  unfold entryPosition
  split_ifs with hslot hpass
  · exact h
  · exact Nat.lt_of_le_of_ne h hpass
  · exact Nat.zero_le _

/-- The display load is the last thing a slot entry does. -/
theorem entryResult_showsSlot (s : State) : ShowsSlot (entryResult s) := ⟨rfl, rfl⟩

theorem entryResult_legal {s : State} (h : LegalState s) : LegalState (entryResult s) := by
  obtain ⟨hbank, hpass, -, -, -⟩ := (legalState_iff s).1 h
  obtain ⟨hdigEn, hbcdOut⟩ := entryResult_showsSlot s
  rw [legalState_iff, entryResult_bank]
  refine ⟨clearedBy_legal s (tickedBank_legal hbank), entryPosition_pass_le hpass, le_rfl, .inr hdigEn, ?_⟩
  rw [← entryResult_bank]
  exact hbcdOut

/-! ### Every step -/

/-- Whatever a step answers is legal: under `rst` the reset values are, and otherwise it starts from a legal state. The
end of the edge writes none of the registers `Inv` names. -/
theorem step_legal {s t : State} (h : step s = .next t) : LegalState t := by
  obtain ⟨-, rfl⟩ | ⟨-, hlegal, -, rfl⟩ | ⟨-, hlegal, -, rfl⟩ := step_cases s t h
  · exact legalState_of_atReset (atReset_closeEdge_resetRegisters s)
  · obtain ⟨hbank, hpass, hhold, hdisplay⟩ := (legalState_iff s).1 hlegal
    exact (legalState_iff _).2 ⟨hbank, hpass, (Nat.sub_le _ _).trans hhold, hdisplay⟩
  · exact entryResult_legal hlegal

/-- Settles O28: `step_legal` does without the premise, since an edge where it fails faults. -/
theorem everyStepKeepsTheLegalState : Obligations.EveryStepKeepsTheLegalState := fun _ _ _ h => step_legal h

theorem onehot4_cases : ∀ k : BitVec 2,
    onehot4 k = 0b0001 ∨ onehot4 k = 0b0010 ∨ onehot4 k = 0b0100 ∨ onehot4 k = 0b1000 := by decide

/-- With `rst = 0` a dwell edge keeps the display on its slot and a slot entry puts it there. -/
theorem step_showsSlot {s t : State} (hrst : s.pins.rst = false) (hs : ShowsSlot s ∨ s.hold = 0)
    (h : step s = .next t) : ShowsSlot t := by
  obtain ⟨hhigh, -⟩ | ⟨-, -, hhold, rfl⟩ | ⟨-, -, -, rfl⟩ := step_cases s t h
  · rw [hrst] at hhigh; cases hhigh
  · exact hs.resolve_right hhold
  · exact entryResult_showsSlot s

/-- Settles O30: `step_showsSlot`, and one-hot at a position is one of the four values. -/
theorem everyStepKeepsTheDisplayOnItsSlot : Obligations.EveryStepKeepsTheDisplayOnItsSlot := by
  intro s t hrst hs h
  obtain ⟨hdigEn, hbcdOut⟩ := step_showsSlot hrst hs h
  refine ⟨⟨hdigEn, hbcdOut⟩, ?_⟩
  rw [hdigEn]
  exact onehot4_cases t.slot

end Sys2Proof.Machine
end

section
/-! PROOFS. One edge: the composed function `STEP` (42_sequencer.md R79), the run-state table (41_run_state.md R70), the
causes of a change of the digits (20_memory.md R40), system reset (70_reset_and_hazards.md R96, R97). -/

namespace Sys2Proof.Machine

open Sys2Proof.Safety

/-! ### The step and the decoded operation -/

/-- Under `rst`, and in a legal state, the step is the selected operation and the end of the edge. -/
theorem step_eq_closeOutcome {s : State} (h : s.pins.rst = true ∨ LegalState s) :
    step s = closeOutcome (exec (selected s) s) := by
  obtain hrst | hlegal := h
  · exact if_neg (by simp [edgeFaults, hrst])
  · exact if_neg (by simp [edgeFaults, (legal_iff s).2 hlegal])

/-- Settles O25: every operation answers a next state, which the end of the edge then closes. -/
theorem stepRunsTheDecodedOperation : Obligations.StepRunsTheDecodedOperation := by
  intro s hs
  obtain ⟨t, hexec⟩ := exec_next (selected s) s
  refine ⟨t, hexec, ?_⟩
  rw [step_eq_closeOutcome hs, hexec]
  rfl

/-! ### The composed function -/

theorem stepR79_of_rst {s : State} (hrst : s.pins.rst = true) : stepR79 s = some (resetRegisters s) := if_pos hrst

theorem stepR79_of_illegal {s : State} (hrst : s.pins.rst = false) (hlegal : ¬ LegalState s) : stepR79 s = none := by
  rw [stepR79, if_neg (by simp [hrst]), if_pos ((legal_eq_false_iff s).2 hlegal)]

theorem stepR79_of_hold {s : State} (hrst : s.pins.rst = false) (hlegal : LegalState s) (hhold : s.hold ≠ 0) :
    stepR79 s = some { s with hold := s.hold - 1 } := by
  rw [stepR79, if_neg (by simp [hrst]), if_neg (by simp [(legal_iff s).2 hlegal]), if_pos hhold]

/-- `RUN` after the action, in the words of R79. -/
theorem sampledRun_eq_of_action (s : State) : sampledRun s =
    if action s.pins = .start then true else if action s.pins = .pause ∨ action s.pins = .reset then false
    else s.run := by
  rw [← runAfter_action]
  cases action s.pins <;> rfl

/-- The reset button's clear, in the words of R79. -/
theorem clearedBy_eq_of_action (s : State) (d : DigitBank) :
    clearedBy s d = if action s.pins = .reset then ⟨0, 0, 0, 0⟩ else d := by
  simp only [clearedBy, action_eq_reset_iff]

/-- On a slot-entry edge the composed function is `entryResult`, with the wire k as it was. -/
theorem stepR79_of_entry {s : State} (hrst : s.pins.rst = false) (hlegal : LegalState s) (hhold : s.hold = 0) :
    stepR79 s = some { entryResult s with k := s.k } := by
  rw [stepR79, if_neg (by simp [hrst]), if_neg (by simp [(legal_iff s).2 hlegal]), if_neg (not_not.2 hhold)]
  simp only [entryResult, entered, sampledRun_eq_of_action, clearedBy_eq_of_action]
  rfl

/-- Settles O26: the four cases of a step, each compared with the branch of `STEP` that has its conditions. -/
theorem stepIsTheComposedNextStateFunction : Obligations.StepIsTheComposedNextStateFunction := by
  intro s
  cases hrst : s.pins.rst with
  | true => rw [step_of_rst s hrst, stepR79_of_rst hrst]; rfl
  | false =>
    by_cases hlegal : LegalState s
    · by_cases hhold : s.hold = 0
      · rw [step_of_entry s hrst hlegal hhold, stepR79_of_entry hrst hlegal hhold]; rfl
      · rw [step_of_hold s hrst hlegal hhold, stepR79_of_hold hrst hlegal hhold]; rfl
    · rw [step_of_illegal s hrst hlegal, stepR79_of_illegal hrst hlegal]

/-! ### `RUN` and the digits -/

/-- Settles O14: a slot entry gives `RUN` by `runAfter`, and the digits by the tick and then the clear of the reset
button; the table lists both for the four actions. -/
theorem runStateMachineFollowsItsTable : Obligations.RunStateMachineFollowsItsTable := by
  intro s hlegal ⟨hrst, hhold⟩
  refine ⟨_, step_of_entry s hrst hlegal hhold, ?_⟩
  have hrun : (entryResult s).run = runAfter (action s.pins) s.run := (runAfter_action s).symm
  have hbank := (entryResult_bank s).trans (clearedBy_eq_of_action s _)
  rw [closeEdge_run, closeEdge_bank, hrun, hbank]
  cases action s.pins with
  | start | pause | reset | none => exact ⟨rfl, rfl⟩

theorem sampledRun_of_resetPressed {s : State} (h : resetPressed s = true) : sampledRun s = false := by
  rw [← runAfter_action, (action_eq_reset_iff s).2 h, runAfter]

/-- Settles O34: a dwell edge keeps the digits; a slot entry clears them, or advances them where the tick is due, or
keeps them. -/
theorem digitsChangeOnlyByTickOrReset : Obligations.DigitsChangeOnlyByTickOrReset := by
  intro s t hrst h
  obtain ⟨hhigh, -⟩ | ⟨-, -, -, rfl⟩ | ⟨-, -, hhold, rfl⟩ := step_cases s t h
  · rw [hrst] at hhigh; cases hhigh
  · exact .inl rfl
  · rw [closeEdge_bank, closeEdge_run, entryResult_bank, entryResult_run, clearedBy]
    split
    next hreset => exact .inr (.inr ⟨rfl, sampledRun_of_resetPressed hreset, ⟨hrst, hhold⟩, hreset⟩)
    next =>
      unfold tickedBank
      split
      next hdue =>
        obtain ⟨hslot, hpass, hrun⟩ := hdue
        exact .inr (.inl ⟨rfl, ⟨⟨hrst, hhold⟩, hslot, hpass⟩, hrun⟩)
      next => exact .inl rfl

/-! ### System reset -/

theorem selected_of_rst {s : State} (hrst : s.pins.rst = true) :
    selected s = .sysReset (seqH s) (seqS s) (seqP s) s.run := by
  rw [selected_eq, hrst]; rfl

/-- A fault ends the run, whatever number of edges follows. -/
theorem run_fault_add (m n : Nat) (s : State) (f : Fault) (h : Host.Core.run Sys2Proof.core m s = .fault f) :
    Host.Core.run Sys2Proof.core (m + n) s = .fault f := by
  induction m generalizing s with
  | zero => cases h
  | succ m ih =>
    rw [Nat.succ_add]
    obtain ⟨u, hu⟩ | ⟨g, hg⟩ := step_next_or_fault s
    · rw [run_of_next _ s u hu] at h ⊢
      exact ih u h
    · rw [run_of_fault _ s g hg] at h ⊢
      exact h

/-- Settles O22: `SYS_RESET` writes the reset registers, `rst` selects it in any state, and a fault ends the run. -/
theorem systemResetFromAnyState : Obligations.SystemResetFromAnyState := by
  refine ⟨fun _ _ _ _ _ => rfl, fun s hrst => ⟨_, _, _, _, selected_of_rst hrst, ?_⟩,
    fun s m n f => run_fault_add m n s f⟩
  obtain ⟨t, ht, hreset, -⟩ := step_atReset_of_rst s hrst
  exact ⟨t, ht, hreset⟩

theorem clearedBy_zero (s : State) : clearedBy s DigitBank.zero = DigitBank.zero := ite_self _

/-- From the reset values the first edge enters position 0 of pass 0, at 00:00 whatever the buttons. -/
theorem step_of_atReset {s : State} (hreset : AtReset s) (hrst : s.pins.rst = false) :
    step s = .next (closeEdge (entered 0 0 DigitBank.zero s)) := by
  have hlegal := legalState_of_atReset hreset
  obtain ⟨hbank, hrun, hslot, hpass, hhold, -, -⟩ := hreset
  have hposition : entryPosition s = (0, 0, false) := by simp [entryPosition, hslot, hpass, hrun]
  rw [step_of_entry s hrst hlegal hhold, entryResult, hposition, hbank]
  rfl

/-- Settles O24: at reset `HOLD`, `SLOT`, `PASS` and `RUN` select `TICK_IDLE`, and the edge enters position 0. -/
theorem firstEdgeAfterResetIsTickIdle : Obligations.FirstEdgeAfterResetIsTickIdle := by
  intro s hreset hrst
  have hstep := step_of_atReset hreset hrst
  obtain ⟨-, hrun, hslot, hpass, hhold, -, -⟩ := hreset
  refine ⟨?_, _, hstep, rfl, rfl, rfl, clearedBy_zero s, rfl, rfl⟩
  rw [selected_tick s hrst hhold hslot hpass, hrun]
  rfl

end Sys2Proof.Machine
end

section
/-! PROOFS. What each family of operations leaves unchanged (10_state.md R31), and the operations outside their selecting
conditions (log entry 6). -/

namespace Sys2Proof.Machine

open Sys2Proof.Safety

/-- A BANK operation writes the digits only (`runBank_eq`). -/
theorem exec_bank_frame {i : Instr} {s t : State} (hi : i.format = .bank) (h : exec i s = .next t) :
    t = { s with bank := t.bank } := by
  cases i with
  | bcNop | bcInc | bcClr | bcClrInc => cases h; rfl
  | sysReset | dwell | slotStep | passStep | tickIdle | tickAdvance | actStart | actPause | actReset | actNone =>
    cases hi

/-- A SAMPLE operation writes `RUN` and `k` only. -/
theorem exec_sample_frame {i : Instr} {s t : State} (hi : i.format = .sample) (h : exec i s = .next t) :
    t = { s with run := t.run, k := t.k } := by
  cases i with
  | actStart | actPause | actReset | actNone => cases h; rfl
  | sysReset | dwell | slotStep | passStep | tickIdle | tickAdvance | bcNop | bcInc | bcClr | bcClrInc => cases hi

theorem sampledRun_of_none_pressed {s : State} (hstart : s.pins.startN = true) (hpause : s.pins.pauseN = true)
    (hreset : s.pins.resetN = true) : sampledRun s = s.run := by
  simp [sampledRun, hstart, hpause, hreset]

/-- A slot-entry operation leaves `entered` at some position; only `TICK_ADVANCE` ticks. -/
theorem exec_entry_frame {i : Instr} {s t : State} (hi : entersBy i = true) (h : exec i s = .next t) :
    t.params = s.params ∧ t.script = s.script ∧ t.edge = s.edge ∧ t.run = sampledRun s ∧
      (i ≠ .tickAdvance → t.bank = clearedBy s s.bank) := by
  obtain ⟨slot, pass, hexec⟩ := exec_of_entersBy s i hi
  rw [hexec, slotEntry_eq] at h
  cases h
  refine ⟨rfl, rfl, rfl, rfl, fun hne => ?_⟩
  rw [decide_eq_false hne]
  rfl

/-- Settles O38, family by family; a slot entry takes digits and `RUN` from the buttons only where one is pressed. -/
theorem operationsWriteOnlyTheirRegisters : Obligations.OperationsWriteOnlyTheirRegisters := by
  refine fun i s t h => ⟨fun hi => exec_bank_frame hi h, fun hi => exec_sample_frame hi h, ?dwell, ?sysReset, ?entry⟩
  case dwell => rintro ⟨sl, p, u, rfl⟩; cases h; rfl
  case sysReset => rintro ⟨r, sl, p, u, rfl⟩; cases h; exact ⟨rfl, rfl, rfl, rfl⟩
  case entry =>
    intro hi
    obtain ⟨hparams, hscript, hedge, hrun, hbank⟩ := exec_entry_frame hi h
    refine ⟨hparams, hscript, hedge, ?_, fun hne hreset => ?_, fun hstart hpause hreset => ?_⟩
    · rintro ⟨p, u, rfl⟩
      cases h
      rfl
    · rw [hbank hne, clearedBy, hreset]
      rfl
    · rw [hrun, sampledRun_of_none_pressed hstart hpause hreset]

/-- Settles O45: the equations of the operations hold in every state, so outside the conditions too; `HOLD = 0` counts
down to 0 in the naturals and `SLOT = 3` up to 0 in 2 bits. -/
theorem outsideItsConditionAnOperationFollowsItsPseudocode :
    Obligations.OutsideItsConditionAnOperationFollowsItsPseudocode := by
  refine fun s => ⟨fun sl p u hhold => ?_, fun p u hslot => ?_, fun u _ => exec_passStep s u,
    fun _ => exec_bcInc s, fun _ => exec_tickAdvance s⟩
  · have hsame : s.hold - 1 = s.hold := by omega
    rw [exec_dwell, hsame]
  · rw [exec_slotStep, hslot]
    rfl

end Sys2Proof.Machine
end

section
/-! PROOFS. Runs: what an edge's input is, invariants along a run, and the display from reset on (42_sequencer.md R83,
R84; 00_scope.md R7). -/

namespace Sys2Proof.Machine

open Sys2Proof.Safety

/-! ### What a run leaves -/

/-- A run of `n` edges leaves the parameters, and uses up `n` listed inputs and `n` edge numbers. -/
theorem reaches_frame {n : Nat} {s t : State} (h : Reaches n s t) :
    t.params = s.params ∧ t.script = s.script.drop n ∧ t.edge = s.edge + n := by
  induction n generalizing s with
  | zero =>
    obtain rfl := (reaches_zero s t).1 h
    exact ⟨rfl, rfl, rfl⟩
  | succ n ih =>
    obtain ⟨u, hstep, hrun⟩ := (reaches_succ n s t).1 h
    obtain ⟨hparams, hscript, hedge⟩ := ih hrun
    obtain ⟨hscript', hedge'⟩ : u.script = s.script.drop 1 ∧ u.edge = s.edge + 1 := by
      obtain ⟨-, rfl⟩ | ⟨-, -, -, rfl⟩ | ⟨-, -, -, rfl⟩ := step_cases s u hstep
      · exact ⟨rfl, rfl⟩
      · exact ⟨rfl, rfl⟩
      · exact ⟨rfl, rfl⟩
    rw [hparams, hscript, hedge, step_params s u hstep, hscript', hedge', List.drop_drop, Nat.add_comm 1 n,
      Nat.add_assoc, Nat.add_comm 1 n]
    exact ⟨rfl, rfl, rfl⟩

/-- Settles O39, by induction on the run (`reaches_frame`). -/
theorem parametersAreFixedAndInputsUsedInOrder : Obligations.ParametersAreFixedAndInputsUsedInOrder :=
  fun _ _ _ h => reaches_frame h

/-- The inputs of the edge after `n` edges are the start's inputs `n` edges ahead. -/
theorem reaches_pins {n : Nat} {s t : State} (h : Reaches n s t) : t.pins = s.inputsAt n := by
  obtain ⟨-, hscript, hedge⟩ := reaches_frame h
  simp only [State.pins, State.inputsAt, hscript, hedge, List.getElem?_drop, Nat.add_zero]

/-! ### Legal runs -/

/-- A legal state never faults, and its step stays legal. -/
theorem exists_step_of_legal {s : State} (h : LegalState s) : ∃ t, step s = .next t ∧ LegalState t := by
  obtain ⟨t, ht⟩ | ⟨f, hf⟩ := step_next_or_fault s
  · exact ⟨t, ht, step_legal ht⟩
  · obtain ⟨-, hillegal, -⟩ := (step_eq_fault_iff s f).1 hf
    exact absurd h hillegal

/-- Settles O32, by induction on the number of edges: no edge from a legal state faults. -/
theorem legalStatesRunForever : Obligations.LegalStatesRunForever := by
  intro s n
  induction n generalizing s with
  | zero => exact fun h => ⟨s, (reaches_zero s s).2 rfl, h⟩
  | succ n ih =>
    intro h
    obtain ⟨u, hstep, hu⟩ := exists_step_of_legal h
    obtain ⟨t, hrun, ht⟩ := ih u hu
    exact ⟨t, (reaches_succ n s t).2 ⟨u, hstep, hrun⟩, ht⟩

theorem reaches_legal {n : Nat} {s t : State} (h : LegalState s) (hrun : Reaches n s t) : LegalState t := by
  obtain ⟨t', hrun', ht'⟩ := legalStatesRunForever s n h
  obtain rfl : t = t' := Host.Outcome.next.inj (hrun.symm.trans hrun')
  exact ht'

/-- A property of the edge number and the state that holds after `m` edges of a legal run, and that every later edge
hands on, holds after `n` edges. The edge from `v` is given with what every state of the run has: `Inv`, the parameters
of the start, and the start's inputs `j` edges ahead. -/
theorem exists_reaches_of_legal {P : Nat → State → Prop} {s u : State} {m n : Nat} (hlegal : LegalState s)
    (hmn : m ≤ n) (hbase : Reaches m s u) (hu : P m u)
    (hstep : ∀ j v w, m ≤ j → j < n → LegalState v → v.params = s.params → v.pins = s.inputsAt j →
      step v = .next w → P j v → P (j + 1) w) :
    ∃ t, Reaches n s t ∧ P n t := by
  induction n, hmn using Nat.le_induction with
  | base => exact ⟨u, hbase, hu⟩
  | succ n hmn ih =>
    obtain ⟨v, hrun, hv⟩ := ih fun j v w hj hlt => hstep j v w hj (Nat.lt_succ_of_lt hlt)
    have hvlegal := reaches_legal hlegal hrun
    obtain ⟨w, hw, -⟩ := exists_step_of_legal hvlegal
    have hlast : Reaches 1 v w := (reaches_succ 0 v w).2 ⟨w, hw, (reaches_zero w w).2 rfl⟩
    obtain ⟨hparams, -, -⟩ := reaches_frame hrun
    exact ⟨w, reaches_add n 1 s v w hrun hlast,
      hstep n v w hmn n.lt_succ_self hvlegal hparams (reaches_pins hrun) hw hv⟩

/-! ### From reset on -/

/-- The first edge after reset, as a run. -/
theorem reaches_one_of_atReset {s : State} {n : Nat} (hreset : AtReset s) (hno : NoReset n s) (hn : 1 ≤ n) :
    Reaches 1 s (closeEdge (entered 0 0 DigitBank.zero s)) :=
  (reaches_succ 0 s _).2 ⟨_, step_of_atReset hreset (hno 0 hn), (reaches_zero _ _).2 rfl⟩

theorem getLsbD_onehot4 : ∀ slot k : BitVec 2, (onehot4 slot).getLsbD k.toNat = true ↔ k = slot := by decide

/-- Settles O31: the first edge puts the display on its slot, every later one keeps it there, and the one bit of a
one-hot value is the one at its position. -/
theorem oneDigitEnabledFromTheFirstEdgeOn : Obligations.OneDigitEnabledFromTheFirstEdgeOn := by
  intro s n hreset hno hn
  obtain ⟨t, hrun, hdigEn, hbcdOut⟩ := exists_reaches_of_legal (P := fun _ => ShowsSlot)
    (legalState_of_atReset hreset) hn (reaches_one_of_atReset hreset hno hn) ⟨rfl, rfl⟩
    fun j v w _ hj _ _ hpins hstep hshows => step_showsSlot (hpins ▸ hno j hj) (.inl hshows) hstep
  refine ⟨t, hrun, hbcdOut, fun k => ?_⟩
  rw [hdigEn]
  exact getLsbD_onehot4 t.slot k

end Sys2Proof.Machine
end

section
/-! PROOFS. The position in the sequence, and the seconds counted, after a number of edges from reset (42_sequencer.md
R82; 95_test_vectors.md section 1). -/

namespace Sys2Proof.Machine

open Sys2Proof.Safety

theorem one_le_of_params_wellFormed {p : Params} (h : p.wellFormed = true) : 1 ≤ p.nPasses ∧ 1 ≤ p.dwellCycles := by
  rw [Params.wellFormed, Bool.and_eq_true, decide_eq_true_iff, decide_eq_true_iff] at h
  exact h

/-! ### Edges since reset -/

/-- The slots a block at this position has left behind since reset, with `c` super-cycles completed. -/
def slotsBefore (s : State) (c : Nat) : Nat := s.slot.toNat + 4 * (s.pass + s.params.nPasses * c)

/-- The edges since reset: those of the slots left behind and those of the present slot. -/
def elapsed (s : State) (c : Nat) : Nat :=
  s.params.dwellCycles * slotsBefore s c + (s.params.dwellCycles - s.hold)

/-- The super-cycles completed after an edge with `rst = 0`, where `c` were before it. -/
def cyclesAfter (s : State) (c : Nat) : Nat :=
  if s.hold = 0 ∧ s.slot = 3 ∧ s.pass = s.params.nPasses - 1 then c + 1 else c

theorem cyclesAfter_of_hold {s : State} (hhold : s.hold ≠ 0) (c : Nat) : cyclesAfter s c = c :=
  if_neg fun ⟨hzero, _⟩ => hhold hzero

theorem toNat_slot_succ : ∀ slot : BitVec 2, slot ≠ 3 → (slot + 1).toNat = slot.toNat + 1 := by decide

/-- A slot entry leaves one more slot behind, in each of its three moves. -/
theorem slotsBefore_entryResult {s : State} (hpasses : 1 ≤ s.params.nPasses) (hhold : s.hold = 0) (c : Nat) :
    slotsBefore (entryResult s) (cyclesAfter s c) = slotsBefore s c + 1 := by
  change (entryPosition s).1.toNat + 4 * ((entryPosition s).2.1 + s.params.nPasses * cyclesAfter s c) =
    s.slot.toNat + 4 * (s.pass + s.params.nPasses * c) + 1
  unfold entryPosition cyclesAfter
  split_ifs with hslot hend hpass hend hend
  · obtain ⟨-, hslot', -⟩ := hend
    exact absurd hslot' hslot
  · rw [toNat_slot_succ _ hslot]
    dsimp only
    omega
  · obtain ⟨-, -, hpass'⟩ := hend
    exact absurd hpass' hpass
  · rw [not_not.1 hslot]
    dsimp only [BitVec.reduceToNat]
    omega
  · rw [not_not.1 hslot, Nat.mul_succ]
    dsimp only [BitVec.reduceToNat]
    omega
  · exact absurd ⟨hhold, not_not.1 hslot, not_not.1 hpass⟩ hend

/-- Every edge with `rst = 0` counts one. -/
theorem elapsed_step {s t : State} (hwell : s.params.wellFormed = true) (hrst : s.pins.rst = false)
    (h : step s = .next t) (c : Nat) : elapsed t (cyclesAfter s c) = elapsed s c + 1 := by
  obtain ⟨hpasses, hdwell⟩ := one_le_of_params_wellFormed hwell
  obtain ⟨hhigh, -⟩ | ⟨-, hlegal, hhold, rfl⟩ | ⟨-, -, hhold, rfl⟩ := step_cases s t h
  · rw [hrst] at hhigh; cases hhigh
  · obtain ⟨-, -, hle, -⟩ := hlegal
    have hcount : s.params.dwellCycles - (s.hold - 1) = s.params.dwellCycles - s.hold + 1 := by omega
    rw [cyclesAfter_of_hold hhold]
    exact congrArg (s.params.dwellCycles * slotsBefore s c + ·) hcount
  · have hcount : s.params.dwellCycles - (s.params.dwellCycles - 1) = 1 := by omega
    calc elapsed (closeEdge (entryResult s)) (cyclesAfter s c)
        = s.params.dwellCycles * slotsBefore (entryResult s) (cyclesAfter s c) +
            (s.params.dwellCycles - (s.params.dwellCycles - 1)) := rfl
      _ = elapsed s c + 1 := by
          rw [slotsBefore_entryResult hpasses hhold, hcount, elapsed, hhold, Nat.mul_succ, Nat.sub_zero]

/-- The first edge after reset enters position 0 of pass 0. -/
theorem elapsed_first {s : State} (hwell : s.params.wellFormed = true) (d : DigitBank) :
    elapsed (closeEdge (entered 0 0 d s)) 0 = 1 := by
  obtain ⟨-, hdwell⟩ := one_le_of_params_wellFormed hwell
  change s.params.dwellCycles * (0 + 4 * (0 + s.params.nPasses * 0)) +
    (s.params.dwellCycles - (s.params.dwellCycles - 1)) = 1
  rw [Nat.mul_zero]
  omega

/-- The edges since reset determine the position and the super-cycles: `DWELL_CYCLES`, 4 and `N_PASSES` are the bases of
the three counters (R82). -/
theorem position_of_elapsed {s : State} (hwell : s.params.wellFormed = true) (hlegal : LegalState s) {c e : Nat}
    (h : elapsed s c = e + 1) :
    s.hold = s.params.dwellCycles - 1 - e % s.params.dwellCycles ∧
    s.slot.toNat = e / s.params.dwellCycles % 4 ∧
    s.pass = e / (4 * s.params.dwellCycles) % s.params.nPasses ∧
    c = e / (4 * s.params.dwellCycles) / s.params.nPasses := by
  obtain ⟨hpasses, hdwell⟩ := one_le_of_params_wellFormed hwell
  obtain ⟨-, hpass, hhold, -⟩ := hlegal
  have hsplit : e = s.params.dwellCycles - 1 - s.hold + s.params.dwellCycles * slotsBefore s c := by
    rw [elapsed] at h
    omega
  have hmod : e % s.params.dwellCycles = s.params.dwellCycles - 1 - s.hold := by
    rw [hsplit, Nat.add_mul_mod_self_left, Nat.mod_eq_of_lt (by omega)]
  have hslots : e / s.params.dwellCycles = slotsBefore s c := by
    rw [hsplit, Nat.add_mul_div_left _ _ hdwell, Nat.div_eq_of_lt (by omega), Nat.zero_add]
  have hslot := s.slot.isLt
  have hmod4 : slotsBefore s c % 4 = s.slot.toNat := by
    rw [slotsBefore, Nat.add_mul_mod_self_left, Nat.mod_eq_of_lt hslot]
  have hrounds : e / (4 * s.params.dwellCycles) = s.pass + s.params.nPasses * c := by
    rw [Nat.mul_comm, ← Nat.div_div_eq_div_mul, hslots, slotsBefore, Nat.add_mul_div_left _ _ (by decide),
      Nat.div_eq_of_lt hslot, Nat.zero_add]
  rw [hmod, hslots, hmod4, hrounds, Nat.add_mul_mod_self_left, Nat.mod_eq_of_lt (by omega),
    Nat.add_mul_div_left _ _ hpasses, Nat.div_eq_of_lt (by omega)]
  omega

/-- Settles O35: every edge counts one, and the count determines the position. -/
theorem sequencePositionAfterReset : Obligations.SequencePositionAfterReset := by
  intro s e hwell hreset hno he
  have hlegal := legalState_of_atReset hreset
  obtain ⟨t, hrun, c, hcount⟩ := exists_reaches_of_legal (P := fun j u => ∃ c, elapsed u c = j) hlegal he
    (reaches_one_of_atReset hreset hno he) ⟨0, elapsed_first hwell _⟩
    (fun j v w _ hj _ hparams hpins hstep ⟨c, hc⟩ =>
      ⟨cyclesAfter v c, hc ▸ elapsed_step (hparams ▸ hwell) (hpins ▸ hno j hj) hstep c⟩)
  obtain ⟨hparams, -⟩ := reaches_frame hrun
  obtain ⟨hhold, hslot, hpass, -⟩ := position_of_elapsed (e := e - 1) (hparams ▸ hwell) (reaches_legal hlegal hrun)
    (hcount.trans (Nat.sub_add_cancel he).symm)
  rw [hparams] at hhold hslot hpass
  exact ⟨t, hrun, hhold, hslot, hpass⟩

/-! ### Seconds since the start -/

/-- Running, at the digits of as many seconds as super-cycles completed, `e` edges after reset. -/
def CountsSeconds (e : Nat) (s : State) : Prop :=
  ∃ c, elapsed s c = e ∧ s.run = true ∧ s.bank = DigitBank.ofTime c

theorem resetPressed_eq_false {s : State}
    (h : s.pins.startN = false ∨ s.pins.pauseN = true ∧ s.pins.resetN = true) : resetPressed s = false := by
  obtain hstart | ⟨-, hreset⟩ := h
  · simp [resetPressed, hstart]
  · simp [resetPressed, hreset]

theorem sampledRun_eq_true {s : State} (hrun : s.run = true)
    (h : s.pins.startN = false ∨ s.pins.pauseN = true ∧ s.pins.resetN = true) : sampledRun s = true := by
  obtain hstart | ⟨hpause, hreset⟩ := h
  · exact if_pos hstart
  · simp [sampledRun, hpause, hreset, hrun]

/-- While Running at the digits of `c` seconds, a slot entry ticks exactly where it completes a super-cycle. -/
theorem tickedBank_eq_ofTime {s : State} {c : Nat} (hrun : s.run = true) (hhold : s.hold = 0)
    (hbank : s.bank = DigitBank.ofTime c) : tickedBank s = DigitBank.ofTime (cyclesAfter s c) := by
  simp only [tickedBank, cyclesAfter, hrun, hhold, hbank, advance_ofTime, and_true, true_and]
  split
  · rfl
  · rfl

/-- An edge where neither pause nor reset acts goes on counting seconds. -/
theorem step_countsSeconds {e : Nat} {s t : State} (hwell : s.params.wellFormed = true) (hrst : s.pins.rst = false)
    (hbuttons : s.pins.startN = false ∨ s.pins.pauseN = true ∧ s.pins.resetN = true) (h : step s = .next t)
    (hs : CountsSeconds e s) : CountsSeconds (e + 1) t := by
  obtain ⟨c, rfl, hrun, hbank⟩ := hs
  refine ⟨cyclesAfter s c, elapsed_step hwell hrst h c, ?_⟩
  obtain ⟨hhigh, -⟩ | ⟨-, -, hhold, rfl⟩ | ⟨-, -, hhold, rfl⟩ := step_cases s t h
  · rw [hrst] at hhigh; cases hhigh
  · rw [cyclesAfter_of_hold hhold]
    exact ⟨hrun, hbank⟩
  · rw [closeEdge_run, closeEdge_bank, entryResult_run, entryResult_bank, clearedBy, resetPressed_eq_false hbuttons]
    exact ⟨sampledRun_eq_true hrun hbuttons, tickedBank_eq_ofTime hrun hhold hbank⟩

/-- Settles O36: from the first edge on the block counts seconds, and after `n` super-cycles' edges the count of edges
determines that `n` are completed and the position is the first. -/
theorem superCyclesCountSeconds : Obligations.SuperCyclesCountSeconds := by
  intro s n hwell hreset hno hstart hbuttons
  have hlegal := legalState_of_atReset hreset
  have hfirst : CountsSeconds 1 (closeEdge (entered 0 0 DigitBank.zero s)) :=
    ⟨0, elapsed_first hwell _, if_pos hstart, clearedBy_zero s⟩
  obtain ⟨t, hrun, c, hcount, hrunning, hbank⟩ := exists_reaches_of_legal hlegal (Nat.le_add_right 1 _)
    (reaches_one_of_atReset hreset hno (Nat.le_add_right 1 _)) hfirst
    fun j v w _ hj _ hparams hpins hstep hv =>
      step_countsSeconds (hparams ▸ hwell) (hpins ▸ hno j hj) (hpins ▸ hbuttons j hj) hstep hv
  obtain ⟨hparams, -⟩ := reaches_frame hrun
  obtain ⟨hpasses, hdwell⟩ := one_le_of_params_wellFormed hwell
  obtain ⟨-, hslot, hpass, hcycles⟩ := position_of_elapsed (hparams ▸ hwell) (reaches_legal hlegal hrun)
    (hcount.trans (Nat.add_comm 1 _))
  have hslots : superEdges s.params * n / s.params.dwellCycles = 4 * (s.params.nPasses * n) :=
    Nat.div_eq_of_eq_mul_left hdwell (by rw [superEdges]; ring)
  have hrounds : superEdges s.params * n / (4 * s.params.dwellCycles) = s.params.nPasses * n :=
    Nat.div_eq_of_eq_mul_left (by omega) (by rw [superEdges]; ring)
  rw [hparams, hslots, Nat.mul_mod_right] at hslot
  rw [hparams, hrounds, Nat.mul_mod_right] at hpass
  rw [hparams, hrounds, Nat.mul_div_cancel_left _ hpasses] at hcycles
  exact ⟨t, hrun, hcycles ▸ hbank, hrunning, BitVec.eq_of_toNat_eq hslot, hpass⟩

end Sys2Proof.Machine
end

section
/-! PROOFS. A press held for a whole slot is seen (70_reset_and_hazards.md R103). -/

namespace Sys2Proof.Machine

open Sys2Proof.Safety

/-- `RUN` and the digits are what the buttons of one sample ask for, each button where none above it masks it. -/
def Obeys (p : Pins) (s : State) : Prop :=
  (p.startN = false → s.run = true) ∧
  (p.startN = true → p.pauseN = false → s.run = false) ∧
  (p.startN = true → p.pauseN = true → p.resetN = false → s.run = false ∧ s.bank = DigitBank.zero)

theorem entryResult_obeys (s : State) : Obeys s.pins (entryResult s) := by
  rw [Obeys, entryResult_run, entryResult_bank]
  refine ⟨fun hstart => if_pos hstart, fun hstart hpause => ?_, fun hstart hpause hreset => ?_⟩
  · simp [sampledRun, hstart, hpause]
  · have hpressed : resetPressed s = true := by simp [resetPressed, hstart, hpause, hreset]
    exact ⟨sampledRun_of_resetPressed hpressed, if_pos hpressed⟩

/-- `j` edges after a state with `HOLD = h`: the slot is still held, or one sample, of the levels `p`, was taken since
and `RUN` and the digits obey it. -/
def SeenAfter (h : Nat) (p : Pins) (j : Nat) (s : State) : Prop :=
  s.hold + j = h ∨ h < j ∧ s.hold + j = h + s.params.dwellCycles ∧ Obeys p s

/-- The edge at `j = h` takes the sample; no other of the first `h + DWELL_CYCLES` edges does. -/
theorem step_seenAfter {h j : Nat} {p : Pins} {s t : State} (hwell : s.params.wellFormed = true)
    (hrst : s.pins.rst = false) (hj : j < h + s.params.dwellCycles) (hp : j = h → s.pins = p)
    (hstep : step s = .next t) (hs : SeenAfter h p j s) : SeenAfter h p (j + 1) t := by
  obtain ⟨-, hdwell⟩ := one_le_of_params_wellFormed hwell
  obtain ⟨hhigh, -⟩ | ⟨-, -, hhold, rfl⟩ | ⟨-, -, hhold, rfl⟩ := step_cases s t hstep
  · rw [hrst] at hhigh; cases hhigh
  · have hdown : s.hold - 1 + (j + 1) = s.hold + j := by omega
    obtain hbefore | ⟨hlt, hafter, hobeys⟩ := hs
    · exact .inl (hdown.trans hbefore)
    · exact .inr ⟨Nat.lt_succ_of_lt hlt, hdown.trans hafter, hobeys⟩
  · obtain hbefore | ⟨-, hafter, -⟩ := hs
    · obtain rfl : j = h := by omega
      have hcount : s.params.dwellCycles - 1 + (j + 1) = j + s.params.dwellCycles := by omega
      exact .inr ⟨j.lt_succ_self, hcount, hp rfl ▸ entryResult_obeys s⟩
    · omega

/-- Settles O37: `HOLD` is below `DWELL_CYCLES`, so the edge that takes the sample is among the `DWELL_CYCLES`. -/
theorem pressHeldForASlotIsSeen : Obligations.PressHeldForASlotIsSeen := by
  intro s hwell hlegal hno
  obtain ⟨-, hdwell⟩ := one_le_of_params_wellFormed hwell
  have hin : s.hold < s.params.dwellCycles := by
    obtain ⟨-, -, hle, -⟩ := hlegal
    omega
  obtain ⟨t, hrun, hseen⟩ := exists_reaches_of_legal (P := SeenAfter s.hold (s.inputsAt s.hold)) hlegal
    (Nat.zero_le s.params.dwellCycles) ((reaches_zero s s).2 rfl) (.inl rfl)
    fun j v w _ hj _ hparams hpins hstep hv =>
      step_seenAfter (hparams ▸ hwell) (hpins ▸ hno j hj) (hparams ▸ Nat.lt_add_left _ hj) (fun heq => heq ▸ hpins)
        hstep hv
  obtain hheld | ⟨-, -, hstart, hpause, hreset⟩ := hseen
  · omega
  · refine ⟨t, hrun, fun hb => hstart (hb _ hin), fun hb => ?_, fun hb => ?_⟩
    · obtain ⟨hs, hp⟩ := hb _ hin
      exact hpause hs hp
    · obtain ⟨hs, hp, hr⟩ := hb _ hin
      exact hreset hs hp hr

end Sys2Proof.Machine
end

section
/-! PROOFS. The counter widths (00_scope.md R8), the stimulus words (30_encoding.md R54) and the real-time relations
(70_reset_and_hazards.md R111). -/

namespace Sys2Proof.Machine

open Sys2Proof.Safety

/-! ### Counter widths -/

theorem le_two_pow_ceilLog2 (n : Nat) : n ≤ 2 ^ ceilLog2 n := by
  unfold ceilLog2
  split
  next hn => exact hn
  next hn =>
    have hlt := Nat.lt_log2_self (n := n - 1)
    omega

/-- A width is `ceilLog2` of the count, at least 1: the count fits it, and no smaller width but 1. -/
theorem width_bounds (n : Nat) :
    n ≤ 2 ^ max 1 (ceilLog2 n) ∧ (max 1 (ceilLog2 n) = 1 ∨ 2 ^ (max 1 (ceilLog2 n) - 1) < n) := by
  refine ⟨(le_two_pow_ceilLog2 n).trans (Nat.pow_le_pow_right Nat.two_pos (le_max_right _ _)), ?_⟩
  unfold ceilLog2
  split
  next => exact .inl rfl
  next hn =>
    have hle := Nat.log2_self_le (n := n - 1) (by omega)
    rw [max_eq_right (Nat.le_add_left 1 _), Nat.add_sub_cancel]
    omega

/-- Settles O41: `width_bounds` for both counters; a legal count is below the number the width is made for. -/
theorem legalCountersFitTheirWidths : Obligations.LegalCountersFitTheirWidths := by
  intro s hwell
  obtain ⟨hpasses, hdwell⟩ := one_le_of_params_wellFormed hwell
  obtain ⟨hfitPass, hleastPass⟩ := width_bounds s.params.nPasses
  obtain ⟨hfitHold, hleastHold⟩ := width_bounds s.params.dwellCycles
  refine ⟨⟨hfitPass, hleastPass⟩, ⟨hfitHold, hleastHold⟩, fun ⟨_, hpass, hhold, _⟩ => ?_⟩
  exact ⟨lt_of_lt_of_le (by omega) hfitPass, lt_of_lt_of_le (by omega) hfitHold⟩

/-! ### Stimulus words -/

theorem pinsOf_stimOf (p : Pins) : pinsOf (stimOf p) = p := by
  simp only [pinsOf, stimOf, getLsbD_append_ofBool_succ, getLsbD_append_ofBool_zero, BitVec.getLsbD_ofBool,
    decide_true, Bool.true_and]

theorem stimOf_pinsOf : ∀ w : BitVec 4, stimOf (pinsOf w) = w := by decide

/-- Settles O42: words and levels by their bits; each line repeats one word. -/
theorem stimulusLinesExpandToTheirWords : Obligations.StimulusLinesExpandToTheirWords :=
  ⟨pinsOf_stimOf, stimOf_pinsOf, fun _ _ =>
    ⟨List.map_replicate, List.map_replicate, List.map_replicate, List.map_replicate, List.map_replicate,
      List.map_replicate, List.map_replicate, List.map_replicate⟩⟩

/-! ### Real time -/

theorem tickTime_eq (p : Params) (r : RealTime) : tickTime p r = p.nPasses * passTime p r := by
  rw [tickTime, passTime, slotTime, superEdges, slotEdges]
  push_cast
  ring

theorem superEdges_pos {p : Params} (hwell : p.wellFormed = true) : 0 < superEdges p := by
  obtain ⟨hpasses, hdwell⟩ := one_le_of_params_wellFormed hwell
  exact Nat.mul_pos (Nat.mul_pos (by decide) hpasses) hdwell

/-- With a positive clock frequency the tolerance in seconds is one in edges, multiplied by that frequency. -/
theorem tickInTolerance_iff {p : Params} {r : RealTime} (hwell : r.wellFormed = true) (hclk : 0 < r.fClk) :
    tickInTolerance p r = true ↔
      superEdges p - r.fClk ≤ r.tickTolerance * r.fClk ∧ r.fClk - superEdges p ≤ r.tickTolerance * r.fClk := by
  have hlong : tickTime p r - 1 = (superEdges p - r.fClk) / r.fClk := by
    rw [tickTime, sub_div, div_self hclk.ne']
  have hshort : 1 - tickTime p r = (r.fClk - superEdges p) / r.fClk := by
    rw [tickTime, sub_div, div_self hclk.ne']
  rw [tickInTolerance, hwell, Bool.true_and, Bool.and_eq_true, decide_eq_true_iff, decide_eq_true_iff, hlong, hshort,
    div_le_iff₀ hclk, div_le_iff₀ hclk]

/-- Settles O44: the times are the edge counts divided by `F_CLK`, which a well-formed choice has positive. -/
theorem tickTimeIsPassesOfFourSlots : Obligations.TickTimeIsPassesOfFourSlots := by
  refine fun p r => ⟨⟨rfl, tickTime_eq p r⟩, fun hp hr => ?_, fun hr => ?_⟩
  · have hclk : 0 < r.fClk := by
      rw [RealTime.wellFormed, Bool.and_eq_true, decide_eq_true_iff] at hr
      obtain ⟨hpos, -⟩ := hr
      exact hpos
    exact ⟨div_pos (Nat.cast_pos.2 (superEdges_pos hp)) hclk, tickInTolerance_iff hr hclk⟩
  · rw [tickInTolerance, hr, Bool.false_and, Bool.false_and]

end Sys2Proof.Machine
end

section
/-! PROOFS. Placing a control word (log entry 9): the next edge forms it, and the state stays legal. -/

namespace Sys2Proof.Machine

open Sys2Proof.Safety

/-! ### The numbers of the words -/

/-- Appending a bit below a word doubles its number and adds the bit. -/
theorem toNat_append_ofBool {n : Nat} (x : BitVec n) (b : Bool) :
    (x ++ BitVec.ofBool b).toNat = 2 * x.toNat + b.toNat := by
  have hb : b.toNat < 2 ^ 1 := b.toNat_lt
  rw [BitVec.toNat_append, BitVec.toNat_ofBool, ← Nat.shiftLeft_add_eq_or_of_lt hb, Nat.shiftLeft_eq, pow_one,
    Nat.mul_comm]

/-- R45, as a number. -/
theorem seqWord_toNat (s : State) : (seqWord s).toNat =
    2 * (2 * (2 * (2 * s.pins.rst.toNat + (seqH s).toNat) + (seqS s).toNat) + (seqP s).toNat) + s.run.toNat := by
  simp only [seqWord, toNat_append_ofBool, BitVec.toNat_ofBool]

/-- R46, as a number. -/
theorem sampleWord_toNat (s : State) : (sampleWord s).toNat =
    2 * (2 * s.pins.startN.toNat + s.pins.pauseN.toNat) + s.pins.resetN.toNat := by
  simp only [sampleWord, toNat_append_ofBool, BitVec.toNat_ofBool]

/-! ### Placing a SEQ word -/

/-- A register moved off `v` where its bit is to be low, and onto `v` where it is to be high, is `v` as the bit says. -/
theorem placed_eq_iff {α : Type} [DecidableEq α] {v off : α} (hne : off ≠ v) (b : Bool) (x : α) :
    (if b then v else if x = v then off else x) = v ↔ b = true := by
  cases b with
  | true => exact ⟨fun _ => rfl, fun _ => rfl⟩
  | false =>
    rw [if_neg Bool.false_ne_true]
    split
    next => exact ⟨fun h => absurd h hne, nofun⟩
    next hx => exact ⟨fun h => absurd h hx, nofun⟩

theorem placed_le {v off x m : Nat} (hv : v ≤ m) (hoff : off ≤ m) (hx : x ≤ m) (b : Bool) :
    (if b then v else if x = v then off else x) ≤ m := by
  split_ifs
  · exact hv
  · exact hoff
  · exact hx

theorem seqWord_placeSeq {s : State} (hpasses : 2 ≤ s.params.nPasses) (r h sl p u : Bool) :
    (seqWord (placeSeq r h sl p u s)).toNat =
      2 * (2 * (2 * (2 * r.toNat + h.toNat) + sl.toNat) + p.toNat) + u.toNat := by
  have hlast : 0 ≠ lastPass s.params := by rw [lastPass]; omega
  have hh : seqH (placeSeq r h sl p u s) = h :=
    Bool.eq_iff_iff.2 ((seqH_iff _).trans (placed_eq_iff Nat.one_ne_zero h s.hold))
  have hs : seqS (placeSeq r h sl p u s) = sl :=
    Bool.eq_iff_iff.2 ((seqS_iff _).trans (placed_eq_iff (by decide) sl s.slot))
  have hp : seqP (placeSeq r h sl p u s) = p :=
    Bool.eq_iff_iff.2 ((seqP_iff _).trans (placed_eq_iff hlast p s.pass))
  rw [seqWord_toNat, hh, hs, hp]
  rfl

/-- The display registers of the new position: none or its own enabled, and its digit. -/
theorem placeSlot_display (k : BitVec 2) (s : State) :
    ((placeSlot k s).digEn = 0 ∨ (placeSlot k s).digEn = onehot4 k) ∧ (placeSlot k s).bcdOut = s.bank.digit k :=
  ⟨ite_eq_or_eq _ _ _, rfl⟩

theorem placeSeq_legal {s : State} (hlegal : LegalState s) (hdwell : 2 ≤ s.params.dwellCycles) (r h sl p u : Bool) :
    LegalState (placeSeq r h sl p u s) := by
  obtain ⟨hbank, hpass, hhold, -, -⟩ := (legalState_iff s).1 hlegal
  exact (legalState_iff _).2 ⟨hbank, placed_le le_rfl (Nat.zero_le _) hpass p,
    placed_le (Nat.zero_le _) (by omega) hhold h, placeSlot_display _ s⟩

/-! ### Placing a SAMPLE or a BANK word -/

theorem placeSample_legal {s : State} (hlegal : LegalState s) (a b c : Bool) : LegalState (placeSample a b c s) := by
  obtain ⟨hbank, hpass, -, hdisplay⟩ := (legalState_iff s).1 hlegal
  exact (legalState_iff _).2 ⟨hbank, hpass, Nat.zero_le _, hdisplay⟩

theorem placeBank_entersSlot (k i : Bool) (s : State) : EntersSlot (placeBank k i s) := by
  cases i with
  | true => exact ⟨rfl, rfl⟩
  | false => exact ⟨rfl, rfl⟩

theorem placeBank_legal {s : State} (hlegal : LegalState s) (k i : Bool) : LegalState (placeBank k i s) := by
  obtain ⟨hbank, hpass, -, hdisplay⟩ := (legalState_iff s).1 hlegal
  cases i with
  | true => exact (legalState_iff _).2 ⟨hbank, le_rfl, Nat.zero_le _, placeSlot_display 3 s⟩
  | false => exact (legalState_iff _).2 ⟨hbank, hpass, Nat.zero_le _, hdisplay⟩

/-- The rows of R48 with u = 0 are not `TICK_ADVANCE`'s. -/
theorem decodeSeqBits_ne_tickAdvance_of_stopped :
    ∀ r h sl p : Bool, decodeSeqBits r h sl p false ≠ .tickAdvance
  | true, _, _, _ => nofun
  | false, false, _, _ => nofun
  | false, true, false, _ => nofun
  | false, true, true, false => nofun
  | false, true, true, true => nofun

theorem selected_placeBank_iff (k i : Bool) (s : State) :
    selected (placeBank k i s) = .tickAdvance ↔ i = true := by
  cases i with
  | true => exact ⟨fun _ => rfl, fun _ => selected_tick _ rfl rfl rfl rfl⟩
  | false =>
    rw [selected_eq]
    exact ⟨fun h => absurd h (decodeSeqBits_ne_tickAdvance_of_stopped _ _ _ _), nofun⟩

theorem resetPressed_placeBank (k i : Bool) (s : State) : resetPressed (placeBank k i s) = k := Bool.not_not k

/-! ### Placing a number -/

/-- Settles O43: the number's bits are placed one by one, and a number that fits its format is the sum of its bits. -/
theorem placedWordsAreTheNextWords : Obligations.PlacedWordsAreTheNextWords := by
  intro s w hlegal hpasses hdwell
  refine ⟨fun hw => ?_, fun hw => ?_, fun hw => ?_⟩
  · have hplace : s.withFetchWord 5 w =
        placeSeq (w.testBit 4) (w.testBit 3) (w.testBit 2) (w.testBit 1) (w.testBit 0) s := if_pos hw
    rw [hplace]
    refine ⟨?_, placeSeq_legal hlegal hdwell _ _ _ _ _⟩
    rw [seqWord_placeSeq hpasses]
    simp only [Nat.toNat_testBit]
    omega
  · have hplace : s.withFetchWord 3 w = placeSample (w.testBit 2) (w.testBit 1) (w.testBit 0) s := if_pos hw
    rw [hplace]
    refine ⟨?_, ⟨rfl, rfl⟩, placeSample_legal hlegal _ _ _⟩
    rw [sampleWord_toNat]
    change 2 * (2 * (w.testBit 2).toNat + (w.testBit 1).toNat) + (w.testBit 0).toNat = w
    simp only [Nat.toNat_testBit]
    omega
  · have hplace : s.withFetchWord 2 w = placeBank (w.testBit 1) (w.testBit 0) s := if_pos hw
    rw [hplace]
    exact ⟨placeBank_entersSlot _ _ s, placeBank_legal hlegal _ _, selected_placeBank_iff _ _ s,
      resetPressed_placeBank _ _ s⟩

end Sys2Proof.Machine
end
